-- ==== Sys2Proof/Word.lean ====
section
/-! DEFINITION. The word types of the command, response and collaborator ports, and the two colour records. -/

namespace Sys2Proof

/-- An LED index, an LED count, a shift or rotate amount: `IDX_W` = 16 bits, unsigned (R6, R61). -/
abbrev Idx := BitVec 16

/-- One colour channel, saturation or value operand: 8 bits, unsigned (R27, R61). -/
abbrev Channel := BitVec 8

/-- A command word (R60). -/
abbrev CommandWord := BitVec 64

/-- A response word (R63). -/
abbrev ResponseWord := BitVec 32

/-- A pixel: three independent 8-bit channels (R27). -/
structure Pixel where
  r : Channel
  g : Channel
  b : Channel
deriving DecidableEq, Repr

/-- `BLACK` (R9). -/
def Pixel.black : Pixel := { r := 0, g := 0, b := 0 }

/-- An HSV colour, an operand only and never stored (R31, R80): hue in 16 bits, saturation and value in 8 bits each (R61). -/
structure Hsv where
  h : BitVec 16
  s : Channel
  v : Channel
deriving DecidableEq, Repr

end Sys2Proof
end

