-- ==== Sys2Proof/Config.lean ====
section
/-! DEFINITION. The build parameters of the CORE (R6) and the free values. -/

namespace Sys2Proof

/-- The implementation parameters of R6. They are fixed when the hardware is built and no command writes them (R169).
They are arguments of the step relation, not state of the CORE: the model's State carries them because the state is
the step's only argument (log entry 2). `OFF_COUNT` and `IDX_W` are fixed by R6 and are no fields. -/
structure Config where
  /-- `MAX_LEDS`, capacity of the PixelBuffer storage. -/
  maxLeds : Nat
  /-- `T0_COUNT`, the timer count of a 0 bit. A timer count is only ever written, compared and read whole, so it is a
  number; that the elements of TB fit `TC_W` bits is part of `Machine.Memory.wf`. -/
  t0Count : Nat
  /-- `T1_COUNT`, the timer count of a 1 bit. -/
  t1Count : Nat
  /-- `PERIOD_COUNT`, ticks in a symbol period; no rule that writes state uses it. -/
  periodCount : Nat
  /-- `RESET_SLOTS`, trailing off elements of the TimingBuffer. -/
  resetSlots : Nat
  /-- `TC_W`, width of a TimingBuffer element in bits. -/
  tcW : Nat
deriving DecidableEq, Repr

/-- `OFF_COUNT`, the "off" timer value: fixed at 0 (R6). -/
def Config.offCount : Nat := 0

/-- The configuration of `State.reset`. DESIGN CHOICE (log entry 2): RESET_SLOTS 48 and TC_W 16 are the defaults of R6,
the three counts are CFG72 of R7, MAX_LEDS is the capacity spec/95_test_vectors.md uses. No statement rests on them. -/
def Config.reference : Config :=
  { maxLeds := 300, t0Count := 29, t1Count := 50, periodCount := 90, resetSlots := 48, tcW := 16 }

/-- Free value: what an unspecified TB read returns (R51, U4), one number per draw; cut to `TC_W` bits where it is used. -/
opaque Config.freeCount : Nat → Nat

/-- Free value: the collaborator's answer to `start(n)` (R124, U8) where the state lists no coming answer. -/
opaque Config.freeStartAnswer : Nat → Bool

end Sys2Proof
end

