-- ==== Sys2Proof/Syntax.lean ====
section
/-! DEFINITION. The instructions: one constructor per row of spec/opcode_table.json; the two port forms an instruction
can arrive in; and the lines of the textual syntax of R71. -/

namespace Sys2Proof

/-- The sixteen commands (R65) and the collaborator's event NOTIFY (R70). Operands have exactly the width of their
field (R61), so every term is an instruction the ports can carry. -/
inductive Instr where
  /-- `INIT count`, form I (R136). -/
  | init (count : Idx)
  /-- `TEARDOWN`, form N (R137). -/
  | teardown
  /-- `SET_DISABLE f`, form F (R138). -/
  | setDisable (f : Bool)
  /-- `STATUS`, form N (R139). -/
  | status
  /-- `SET_ONE i, r, g, b`, form P (R91). -/
  | setOne (i : Idx) (p : Pixel)
  /-- `SET_ONE_HSV i, h, s, v`, form H (R92). -/
  | setOneHsv (i : Idx) (c : Hsv)
  /-- `SET_ALL r, g, b`, form P without index (R93). -/
  | setAll (p : Pixel)
  /-- `SET_ALL_HSV h, s, v`, form H without index (R94). -/
  | setAllHsv (c : Hsv)
  /-- `SET_SPAN low, high, r, g, b`, form S (R95). -/
  | setSpan (low high : Idx) (p : Pixel)
  /-- `CLEAR`, form N (R96). -/
  | clear
  /-- `SHL n`, form I (R101). -/
  | shl (n : Idx)
  /-- `SHR n`, form I (R102). -/
  | shr (n : Idx)
  /-- `ROL n`, form I (R103). -/
  | rol (n : Idx)
  /-- `ROR n`, form I (R104). -/
  | ror (n : Idx)
  /-- `HSV2RGB h, s, v`, form H without index (R82). -/
  | hsv2rgb (c : Hsv)
  /-- `UPDATE`, form N (R121). -/
  | update
  /-- `NOTIFY`, the event of the collaborator port, form E (R70, R126). -/
  | notify
deriving DecidableEq, Repr

/-- What stands at a port: a word at the command port (R60) or the level of the one-bit notify input (R70). -/
inductive PortWord where
  | command (w : CommandWord)
  | notify (level : BitVec 1)
deriving DecidableEq, Repr

/-- A line of the textual form of R71 or a pseudo-command of R72, with its numbers as written, so that a number too
large for its field can be written down and refused (`AsmLine.wellFormed`). -/
inductive AsmLine where
  | init (count : Nat)
  | teardown
  | setDisable (f : Nat)
  | status
  | setOne (i r g b : Nat)
  | setOneHsv (i h s v : Nat)
  | setAll (r g b : Nat)
  | setAllHsv (h s v : Nat)
  | setSpan (low high r g b : Nat)
  | clear
  | shl (n : Nat)
  | shr (n : Nat)
  | rol (n : Nat)
  | ror (n : Nat)
  | hsv2rgb (h s v : Nat)
  | update
  /-- The line `NOTIFY`, which fixes what the collaborator does (R71). -/
  | notify
  /-- The pseudo-command `BLACKOUT` (R72 (c)). -/
  | blackout
deriving DecidableEq, Repr

end Sys2Proof
end

