-- ==== Sys2Proof/WellFormed.lean ====
section
/-! DEFINITION. What is well formed: a configuration (R7) and a line of the textual syntax (R71). An `Instr` needs no
check: its operands have the width of their fields by their types, and R61 admits every value of a field. -/

namespace Sys2Proof

/-- The constraints of R6 and R7: `1 <= MAX_LEDS <= 65535`, `0 < T0_COUNT < T1_COUNT <= PERIOD_COUNT < 2^TC_W`,
`TC_W >= 1`. A model refuses a configuration that breaks one. -/
def Config.wellFormed (c : Config) : Bool :=
  decide (1 ≤ c.maxLeds) && decide (c.maxLeds ≤ 65535) && decide (0 < c.t0Count) && decide (c.t0Count < c.t1Count) &&
    decide (c.t1Count ≤ c.periodCount) && decide (c.periodCount < 2 ^ c.tcW) && decide (1 ≤ c.tcW)

/-- A number fits a field of `w` bits. -/
def fits (w n : Nat) : Bool := decide (n < 2 ^ w)

/-- Every number of a line fits the field R71 assembles it into; the flag of `SET_DISABLE` is 0 or 1. -/
def AsmLine.wellFormed : AsmLine → Bool
  | .init count => fits 16 count
  | .teardown => true
  | .setDisable f => fits 1 f
  | .status => true
  | .setOne i r g b => fits 16 i && fits 8 r && fits 8 g && fits 8 b
  | .setOneHsv i h s v => fits 16 i && fits 16 h && fits 8 s && fits 8 v
  | .setAll r g b => fits 8 r && fits 8 g && fits 8 b
  | .setAllHsv h s v => fits 16 h && fits 8 s && fits 8 v
  | .setSpan low high r g b => fits 16 low && fits 16 high && fits 8 r && fits 8 g && fits 8 b
  | .clear => true
  | .shl n => fits 16 n
  | .shr n => fits 16 n
  | .rol n => fits 16 n
  | .ror n => fits 16 n
  | .hsv2rgb h s v => fits 16 h && fits 8 s && fits 8 v
  | .update => true
  | .notify => true
  | .blackout => true

end Sys2Proof
end

