-- ==== Sys2Proof/Decode.lean ====
section
/-! DEFINITION. Decoding of port words, total, rejecting by name; the encoder from the same tables; the assembler. -/

namespace Sys2Proof

/-- Why a port word is no instruction. -/
inductive Reject where
  /-- The opcode is one of the 240 reserved values (R66). -/
  | reservedOpcode (op : BitVec 8)
  /-- The notify input is at 0: no event (R70). -/
  | noEvent
deriving DecidableEq, Repr

/-! ## The fields of a command word (R60) -/

/-- `OP`, bits [63:56]. -/
def fieldOp (w : CommandWord) : BitVec 8 := w.extractLsb' 56 8
/-- `A`, bits [55:40]. -/
def fieldA (w : CommandWord) : BitVec 16 := w.extractLsb' 40 16
/-- `B`, bits [39:24]. -/
def fieldB (w : CommandWord) : BitVec 16 := w.extractLsb' 24 16
/-- `C2`, bits [23:16]. -/
def fieldC2 (w : CommandWord) : BitVec 8 := w.extractLsb' 16 8
/-- `C1`, bits [15:8]. -/
def fieldC1 (w : CommandWord) : BitVec 8 := w.extractLsb' 8 8
/-- `C0`, bits [7:0]. -/
def fieldC0 (w : CommandWord) : BitVec 8 := w.extractLsb' 0 8

/-- The pixel operand of forms P and S: `(r, g, b) = (C2, C1, C0)` (R61). -/
def pixelOperand (w : CommandWord) : Pixel := { r := fieldC2 w, g := fieldC1 w, b := fieldC0 w }

/-- The HSV operand of form H: `h = B`, `s = C2`, `v = C1` (R61). -/
def hsvOperand (w : CommandWord) : Hsv := { h := fieldB w, s := fieldC2 w, v := fieldC1 w }

/-- The flag operand of form F: bit 16 of the word (R61). -/
def flagOperand (w : CommandWord) : Bool := w.getLsbD 16

/-- The opcode map of R65. `OP` alone selects the command; a field the form does not use is not looked at (R67); every
other opcode is reserved (R66). -/
def decodeCommand (w : CommandWord) : Except Reject Instr :=
  match fieldOp w with
  | 0x01#8 => .ok (.init (fieldA w))
  | 0x02#8 => .ok .teardown
  | 0x03#8 => .ok (.setDisable (flagOperand w))
  | 0x04#8 => .ok .status
  | 0x10#8 => .ok (.setOne (fieldA w) (pixelOperand w))
  | 0x11#8 => .ok (.setOneHsv (fieldA w) (hsvOperand w))
  | 0x12#8 => .ok (.setAll (pixelOperand w))
  | 0x13#8 => .ok (.setAllHsv (hsvOperand w))
  | 0x14#8 => .ok (.setSpan (fieldA w) (fieldB w) (pixelOperand w))
  | 0x15#8 => .ok .clear
  | 0x20#8 => .ok (.shl (fieldA w))
  | 0x21#8 => .ok (.shr (fieldA w))
  | 0x22#8 => .ok (.rol (fieldA w))
  | 0x23#8 => .ok (.ror (fieldA w))
  | 0x30#8 => .ok (.hsv2rgb (hsvOperand w))
  | 0x40#8 => .ok .update
  | op => .error (.reservedOpcode op)

/-- The notify input (R70): the value 1 is the event, the value 0 is no event. -/
def decodeNotify (level : BitVec 1) : Except Reject Instr :=
  if level = 1#1 then .ok .notify else .error .noEvent

/-- Decoding of what stands at a port. It looks at nothing but the word: no state changes how a word is decoded (R68). -/
def decode : PortWord → Except Reject Instr
  | .command w => decodeCommand w
  | .notify level => decodeNotify level

/-! ## The encoder (R60, R65, R71) -/

/-- A command word from its six fields, in the places of R60. -/
def commandWord (op : BitVec 8) (a b : BitVec 16) (c2 c1 c0 : BitVec 8) : CommandWord :=
  op ++ a ++ b ++ c2 ++ c1 ++ c0

/-- The word of an instruction; fields its form does not use are zero (R71). -/
def encode : Instr → PortWord
  | .init count => .command (commandWord 0x01#8 count 0 0 0 0)
  | .teardown => .command (commandWord 0x02#8 0 0 0 0 0)
  | .setDisable f => .command (commandWord 0x03#8 0 0 (if f then 1 else 0) 0 0)
  | .status => .command (commandWord 0x04#8 0 0 0 0 0)
  | .setOne i p => .command (commandWord 0x10#8 i 0 p.r p.g p.b)
  | .setOneHsv i c => .command (commandWord 0x11#8 i c.h c.s c.v 0)
  | .setAll p => .command (commandWord 0x12#8 0 0 p.r p.g p.b)
  | .setAllHsv c => .command (commandWord 0x13#8 0 c.h c.s c.v 0)
  | .setSpan low high p => .command (commandWord 0x14#8 low high p.r p.g p.b)
  | .clear => .command (commandWord 0x15#8 0 0 0 0 0)
  | .shl n => .command (commandWord 0x20#8 n 0 0 0 0)
  | .shr n => .command (commandWord 0x21#8 n 0 0 0 0)
  | .rol n => .command (commandWord 0x22#8 n 0 0 0 0)
  | .ror n => .command (commandWord 0x23#8 n 0 0 0 0)
  | .hsv2rgb c => .command (commandWord 0x30#8 0 c.h c.s c.v 0)
  | .update => .command (commandWord 0x40#8 0 0 0 0 0)
  | .notify => .notify 1

/-! ## The assembler (R71, R72) -/

/-- The instructions a line stands for; `BLACKOUT` is `SET_DISABLE 1` then `UPDATE` (R72 (c)). -/
def AsmLine.instrs : AsmLine → List Instr
  | .init count => [.init (BitVec.ofNat 16 count)]
  | .teardown => [.teardown]
  | .setDisable f => [.setDisable (decide (f = 1))]
  | .status => [.status]
  | .setOne i r g b => [.setOne (BitVec.ofNat 16 i) ⟨BitVec.ofNat 8 r, BitVec.ofNat 8 g, BitVec.ofNat 8 b⟩]
  | .setOneHsv i h s v => [.setOneHsv (BitVec.ofNat 16 i) ⟨BitVec.ofNat 16 h, BitVec.ofNat 8 s, BitVec.ofNat 8 v⟩]
  | .setAll r g b => [.setAll ⟨BitVec.ofNat 8 r, BitVec.ofNat 8 g, BitVec.ofNat 8 b⟩]
  | .setAllHsv h s v => [.setAllHsv ⟨BitVec.ofNat 16 h, BitVec.ofNat 8 s, BitVec.ofNat 8 v⟩]
  | .setSpan low high r g b =>
    [.setSpan (BitVec.ofNat 16 low) (BitVec.ofNat 16 high) ⟨BitVec.ofNat 8 r, BitVec.ofNat 8 g, BitVec.ofNat 8 b⟩]
  | .clear => [.clear]
  | .shl n => [.shl (BitVec.ofNat 16 n)]
  | .shr n => [.shr (BitVec.ofNat 16 n)]
  | .rol n => [.rol (BitVec.ofNat 16 n)]
  | .ror n => [.ror (BitVec.ofNat 16 n)]
  | .hsv2rgb h s v => [.hsv2rgb ⟨BitVec.ofNat 16 h, BitVec.ofNat 8 s, BitVec.ofNat 8 v⟩]
  | .update => [.update]
  | .notify => [.notify]
  | .blackout => [.setDisable true, .update]

/-- The port words of a line; none for a line whose number does not fit its field. -/
def AsmLine.assemble (l : AsmLine) : Option (List PortWord) :=
  if l.wellFormed then some (l.instrs.map encode) else none

/-- The pseudo-command `WAIT_IDLE`, which the host runs: after the response `r` to a `STATUS` it issues `STATUS` again
while bit 0 of `DATA` is 1 (R72 (c)). -/
def waitIdleAgain (r : ResponseWord) : Option Instr :=
  if r.getLsbD 0 then some .status else none

/-! ## The opcode table's numbering -/

/-- The port word the opcode table's number `w` of `nbits` bits stands for: the one-bit row is the level of the notify
input, the 64-bit rows are command words (log entry 14). -/
def tableWord (nbits w : Nat) : PortWord :=
  if nbits < 64 then .notify (if w = 1 then 1#1 else 0#1) else .command (BitVec.ofNat 64 w)

/-- The instruction the decoder reads from a table word. -/
def decodeTableWord (nbits w : Nat) : Option Instr :=
  match decode (tableWord nbits w) with
  | .ok i => some i
  | .error _ => none

end Sys2Proof
end

