-- ==== Sys2Proof/Machine/State.lean ====
section
/-! DEFINITION. The state of one CORE, the reasons a step can stop, and the state after reset. -/

namespace Sys2Proof.Machine

/-- `LIFE`, the lifecycle of the Instance, three legal values (R23). -/
inductive Life where
  /-- Never initialised; no buffer exists. -/
  | uninit
  /-- `INIT` succeeded and `TEARDOWN` has not; both buffers exist. -/
  | live
  /-- `TEARDOWN` succeeded; left only by reset. -/
  | dead
deriving DecidableEq, Repr

/-- The two commands the CORE can hold (R30 (a)). -/
inductive Held where
  | update
  | teardown
deriving DecidableEq, Repr

/-- Who moves next, and with what (R10, R11). -/
inductive Turn where
  /-- The host presents a command word (R62). -/
  | host (w : CommandWord)
  /-- The CORE itself: a held command proceeds if it can (R122, R137). -/
  | core
  /-- The collaborator drives the notify input (R70). -/
  | notify (level : BitVec 1)
  /-- The collaborator reads `TB[j]` through the TB read port (R51). -/
  | tbRead (j : Nat)
  /-- The reset input is asserted (R165). -/
  | reset
deriving DecidableEq, Repr

/-- What one step puts on the CORE's outputs; nothing of it is kept by the CORE (R31, R69, log entry 7). -/
structure Output where
  /-- The response word, if a command completed (R63). -/
  response : Option ResponseWord
  /-- The element count of the start request, if one was made (R69 (a), R124). -/
  start : Option Nat
  /-- The data of the TB read port, if it was read (R51). -/
  readData : Option Nat
deriving DecidableEq, Repr

/-- Nothing on any output. -/
def Output.silent : Output := { response := none, start := none, readData := none }

/-- The status codes of R64. -/
inductive Status where
  | ok
  | indexOutOfRange
  | invalidRange
  | notInitialized
  | allocationFailure
  | transferStartFailed
  | illegalCommand
deriving DecidableEq, Repr

/-- The complete state: the six items of R20, the held command of R30, and the model's own fields (INVENTORY.md). -/
structure State where
  /-- The build parameters (R6); no step changes them. -/
  cfg : Config
  /-- `LIFE` (R23). -/
  life : Life
  /-- `COUNT` (R24). -/
  count : BitVec 16
  /-- `BUSY` (R25): true is Busy. -/
  busy : Bool
  /-- `DISABLE` (R26). -/
  disable : Bool
  /-- `PB` (R27): the pixels that exist, index 0 first. -/
  pb : List Pixel
  /-- `TB` (R28): the elements of the last encode, index 0 first; empty where none has been made since `INIT` (R136). -/
  tb : List Nat
  /-- The held command (R30 (a)). -/
  held : Option Held
  /-- The model's own: the coming turns of the environment, next first (log entry 1). -/
  turns : List Turn
  /-- The model's own: the coming answers to `start(n)`, next first (R124, log entry 4). -/
  answers : List Bool
  /-- The model's own: how many free values have been drawn (log entries 4 and 5). -/
  draws : Nat
  /-- The model's own: the outputs of the step that led here (log entry 7). -/
  out : Output
deriving DecidableEq, Repr

/-- Reasons to stop with a fault: none. The CORE has no trap, an error is a status code in the response (R145, R150),
so no step of the model answers with a fault. Safe: there is no stop here that the hardware does not have. -/
inductive Fault where
deriving DecidableEq, Repr

/-- Reasons to give a run no meaning. -/
inductive Refusal where
  /-- Raised by an arm of `exec` for an instruction that has no meaning yet; no arm does. Safe. -/
  | notModelled (mnemonic : String)
  /-- Raised by `step`: the configuration breaks the constraint of R7, and a model refuses such a configuration (R7, U12;
  log entry 3). Safe. -/
  | badConfiguration
  /-- Raised by `hostTurn`: the host presents a second command while one is outstanding, which is undefined (R62, R176, U1;
  log entry 8). Safe. -/
  | commandWhileOutstanding
deriving DecidableEq, Repr

/-- The CORE right after reset (R32, R165), built with configuration `c`: the environment has nothing scheduled. -/
def State.resetWith (c : Config) : State :=
  { cfg := c, life := .uninit, count := 0, busy := false, disable := false, pb := [], tb := [], held := none,
    turns := [], answers := [], draws := 0, out := Output.silent }

/-- The machine right after reset, in the reference configuration (log entry 2). -/
def State.reset : State := State.resetWith Config.reference

end Sys2Proof.Machine
end

