-- ==== Sys2Proof/Machine/Operands.lean ====
section
/-! DEFINITION. What the operand forms mean: the bounds check of an index, the clamp of an HSV colour, the 24-bit packing of a pixel. -/

namespace Sys2Proof.Machine

/-- An index operand names a pixel that exists: `0 <= i < COUNT`, compared as unsigned 16-bit numbers (R41, R49, R147). -/
abbrev indexInRange (s : State) (i : Idx) : Prop := i.toNat < s.count.toNat

/-- The clamp of R80 saturates: hue to 359. -/
def clampHue (c : Hsv) : Nat := min c.h.toNat 359
/-- Saturation to 100 (R80). -/
def clampSat (c : Hsv) : Nat := min c.s.toNat 100
/-- Value to 100 (R80). -/
def clampVal (c : Hsv) : Nat := min c.v.toNat 100

/-- A pixel carried as a 24-bit value in a command or response word: `{r, g, b}` (R41). -/
def packRgb (p : Pixel) : BitVec 24 := p.r ++ p.g ++ p.b

/-- The same pixel in the order it goes out on the wire: `{g, r, b}` (R44, R111). -/
def packWire (p : Pixel) : BitVec 24 := p.g ++ p.r ++ p.b

end Sys2Proof.Machine
end

