-- ==== Sys2Proof/Machine/Flags.lean ====
section
/-! DEFINITION. The two flags BUSY and DISABLE, the status codes and the STATUS image. -/

namespace Sys2Proof.Machine

/-- Idle to Busy, the write of the proceed step (R25, R123). -/
def setBusy (s : State) : State := { s with busy := true }

/-- Busy to Idle, the write of `NOTIFY` and of a rejected start (R25, R125, R126). -/
def clearBusy (s : State) : State := { s with busy := false }

/-- `DISABLE <- f` (R26, R138). -/
def writeDisable (f : Bool) (s : State) : State := { s with disable := f }

/-- The encoding of `LIFE` (R23). -/
def lifeCode : Life → BitVec 2
  | .uninit => 0
  | .live => 1
  | .dead => 2

/-- A flag as one bit: 1 is set. -/
def flagBit (f : Bool) : BitVec 1 := if f then 1 else 0

/-- The STATUS image `{COUNT, 0b0000, DISABLE, LIFE, BUSY}` (R29, R139). -/
def statusImage (s : State) : BitVec 24 :=
  s.count ++ 0#4 ++ flagBit s.disable ++ lifeCode s.life ++ flagBit s.busy

/-- The numbers of the status codes (R64). -/
def statusCode : Status → BitVec 4
  | .ok => 0
  | .indexOutOfRange => 1
  | .invalidRange => 2
  | .notInitialized => 3
  | .allocationFailure => 4
  | .transferStartFailed => 5
  | .illegalCommand => 6

/-- The response word `ST[31:28]`, reserved `[27:24]` zero, `DATA[23:0]` (R63). -/
def responseWord (st : Status) (data : BitVec 24) : ResponseWord := statusCode st ++ 0#4 ++ data

end Sys2Proof.Machine
end

