-- ==== Sys2Proof/Machine/Ops.lean ====
section
/-! DEFINITION. The shared operations: completing, failing and holding a command; the pixel space; the timing space;
the start request; reset. -/

namespace Sys2Proof.Machine

/-- What a step answers. -/
abbrev Result := Host.Outcome State Fault Refusal

/-! ## Ending a command -/

/-- Nothing on the outputs. -/
def quiet (s : State) : State := { s with out := Output.silent }

/-- The command completes: its one response goes out (R62, R145), together with the start request it made, if any, and
the CORE holds no command any more. -/
def complete (st : Status) (data : BitVec 24) (start : Option Nat) (s : State) : State :=
  { s with held := none, out := { response := some (responseWord st data), start := start, readData := none } }

/-- `ok(d)` (R9). -/
def succeed (data : BitVec 24) (s : State) : Result := .next (complete .ok data none s)

/-- `fail E` (R9, R150): the command completes with status `E` and changes no state. This is what the CORE has in the
place of taking an exception: nothing is saved, no mode changes, control goes nowhere, and so there is nothing to return
from (R151). -/
def fail (e : Status) (s : State) : Result := .next (complete e 0 none s)

/-- `hold until` (R9, R122, R137): the command stays outstanding, no response goes out, nothing else changes. -/
def hold (h : Held) (s : State) : Result := .next (quiet { s with held := some h })

/-- The first check of every command that needs the Instance (R90 (a), R149, R155). -/
def whenLive (s : State) (body : Result) : Result :=
  if s.life = .live then body else fail .notInitialized s

/-! ## Pixel space (R41, R50) -/

/-- `PB[i]`. Rules read it only for `i < COUNT`, where the pixel exists (R9, R27). -/
def pixelAt (pb : List Pixel) (i : Nat) : Pixel := pb.getD i Pixel.black

/-- `PB[i] <- p`. -/
def writePixel (i : Nat) (p : Pixel) (s : State) : State := { s with pb := s.pb.set i p }

/-- Every existing pixel is written at once; the pixel at `i` becomes `f i old`, `old` being what it was (R8, R100). -/
def rewritePixels (f : Nat → Pixel → Pixel) (s : State) : State := { s with pb := s.pb.mapIdx f }

/-- `for every i with 0 <= i < COUNT: PB[i] <- p`. -/
def fillPixels (p : Pixel) (s : State) : State := rewritePixels (fun _ _ => p) s

/-- `for every i with low <= i <= high: PB[i] <- p`. -/
def fillSpan (low high : Nat) (p : Pixel) (s : State) : State :=
  rewritePixels (fun i old => if low ≤ i ∧ i ≤ high then p else old) s

/-- Storage is claimed for an Instance of `count` LEDs, all black (R135, R136). TB is not written. -/
def claimStorage (count : Idx) (s : State) : State :=
  { s with count := count, life := .live, pb := List.replicate count.toNat Pixel.black }

/-- Both buffers are released: no element exists any more (R135, R137). -/
def releaseStorage (s : State) : State := { s with count := 0, life := .dead, pb := [], tb := [] }

/-! ## Timing space (R42, R43, R51) -/

/-- `TB_LEN`, always computed from the current `COUNT` (R43). -/
def tbLen (s : State) : Nat := 24 * s.count.toNat + s.cfg.resetSlots

/-- All of `TB` is written at once; no command writes a part of it (R45). -/
def writeTb (tb : List Nat) (s : State) : State := { s with tb := tb }

/-- `TB[j]` where R51 fixes what a read returns: `LIFE = LIVE`, `j < TB_LEN`, and an encode has written it. -/
def tbElement? (s : State) (j : Nat) : Option Nat :=
  if s.life = .live ∧ j < tbLen s then s.tb[j]? else none

/-- An unspecified timer count: a fresh free value of `TC_W` bits (R51, U4; log entry 5). -/
def freeTimerCount (s : State) : Nat := Config.freeCount s.draws % 2 ^ s.cfg.tcW

/-- A read through the TB read port (R51): it puts the element on the port and changes nothing; where the rule leaves
the value unspecified a free value is drawn. -/
def readTb (j : Nat) (s : State) : State :=
  match tbElement? s j with
  | some v => { s with out := { response := none, start := none, readData := some v } }
  | none =>
    { s with draws := s.draws + 1, out := { response := none, start := none, readData := some (freeTimerCount s) } }

/-! ## The start request (R69, R124) -/

/-- The collaborator's answer to `start(n)`: the next one the environment has listed, or a free value (log entry 4). -/
def startAnswer (s : State) : Bool :=
  match s.answers with
  | a :: _ => a
  | [] => Config.freeStartAnswer s.draws

/-- The answer has been given. -/
def takeAnswer (s : State) : State :=
  match s.answers with
  | _ :: rest => { s with answers := rest }
  | [] => { s with draws := s.draws + 1 }

/-! ## The canonical form of the memories -/

/-- The memories are in their one canonical form (log entry 6): `PB` lists exactly the pixels that exist (R27), `TB`
lists nothing or exactly the `TB_LEN` elements of the last encode of a live Instance (R28, R45), each of `TC_W` bits
(R42). So equal memories are equal lists, and no element that does not exist is listed. -/
def Memory.wf (s : State) : Bool :=
  decide (s.pb.length = s.count.toNat) &&
    (s.tb.isEmpty || (decide (s.life = .live) && decide (s.tb.length = tbLen s))) &&
    s.tb.all (fun v => decide (v < 2 ^ s.cfg.tcW))

/-! ## Reserved opcodes and reset -/

/-- A command word with a reserved opcode: `IllegalCommand`, in every state, no state changed (R66, R154). -/
def illegalCommand (s : State) : Result := fail .illegalCommand s

/-- The reset input is asserted (R32, R165): the CORE's state takes its reset values, a held command is discarded
without a response. What the environment does next is not the CORE's and stays (log entry 13). -/
def resetCore (s : State) : State :=
  { State.resetWith s.cfg with turns := s.turns, answers := s.answers, draws := s.draws }

/-- A `NOTIFY` and another turn presented at the same instant: the `NOTIFY` goes first (R127, R156). -/
def sameInstant (level : BitVec 1) (t : Turn) : List Turn := [.notify level, t]

end Sys2Proof.Machine
end

