-- ==== Sys2Proof/Machine/Lifecycle.lean ====
section
/-! DEFINITION. Lifecycle and status: INIT, TEARDOWN, SET_DISABLE, STATUS (R135 to R139). -/

namespace Sys2Proof.Machine

/-- `INIT count` (R136): the checks in the order of the rule, (a) dead, (b) live, (c) zero, (d) capacity. -/
def execInit (count : Idx) (s : State) : Result :=
  match s.life with
  | .dead => fail .notInitialized s
  | .live => fail .allocationFailure s
  | .uninit =>
    if count.toNat = 0 then fail .invalidRange s
    else if s.cfg.maxLeds < count.toNat then fail .allocationFailure s
    else succeed 0 (claimStorage count s)

/-- `TEARDOWN` (R137): holds while `BUSY = 1`, as `UPDATE` does. `DISABLE` keeps its value. -/
def execTeardown (s : State) : Result :=
  whenLive s (if s.busy then hold .teardown s else succeed 0 (releaseStorage s))

/-- `SET_DISABLE f` (R138): writes the flag and nothing else. -/
def execSetDisable (f : Bool) (s : State) : Result := whenLive s (succeed 0 (writeDisable f s))

/-- `STATUS` (R139): succeeds in every `LIFE`, writes nothing. -/
def execStatus (s : State) : Result := succeed (statusImage s) s

end Sys2Proof.Machine
end

