-- ==== Sys2Proof/Machine/Color.lean ====
section
/-! DEFINITION. ColorModel: the function hsv2rgb over exact integers (R80, R81, R84), the same over a 16-bit datapath
(R83), and the command HSV2RGB (R82). -/

namespace Sys2Proof.Machine

/-- Three channel values between the stages of R81. -/
structure Rgb (α : Type) where
  r : α
  g : α
  b : α
deriving DecidableEq, Repr

/-- Stage 2: hue to a fully saturated, full-value colour. The sector table is that of R84 (log entry 10). -/
def hueStage (h1 : Nat) : Rgb Nat :=
  let sector := h1 / 60
  let d := h1 - 60 * sector
  let t := (425 * d) / 100
  match sector with
  | 0 => ⟨255, t, 0⟩
  | 1 => ⟨255 - t, 255, 0⟩
  | 2 => ⟨0, 255, t⟩
  | 3 => ⟨0, 255 - t, 255⟩
  | 4 => ⟨t, 0, 255⟩
  | _ => ⟨255, 0, 255 - t⟩

/-- Stage 3, one channel: blend toward white, from the channel's own stage-2 value. -/
def blendChannel (s1 c0 : Nat) : Nat := c0 + ((255 - c0) * (100 - s1)) / 100

/-- Stage 4, one channel: scale by value. -/
def scaleChannel (v1 c1 : Nat) : Nat := (c1 * v1) / 100

/-- `hsv2rgb(h, s, v)` (R81): clamp, hue, saturation, value; multiply first, then divide, truncating. -/
def hsv2rgb (c : Hsv) : Pixel :=
  let x := hueStage (clampHue c)
  let channel := fun c0 => BitVec.ofNat 8 (scaleChannel (clampVal c) (blendChannel (clampSat c) c0))
  { r := channel x.r, g := channel x.g, b := channel x.b }

/-! The 16-bit unsigned datapath of R83. Every operation wraps at 16 bits. -/

/-- The smaller of two unsigned 16-bit numbers. -/
def min16 (a b : BitVec 16) : BitVec 16 := if a.ult b then a else b

/-- Stage 2 at 16 bits. -/
def hueStage16 (h1 : BitVec 16) : Rgb (BitVec 16) :=
  let sector := h1 / 60#16
  let d := h1 - 60#16 * sector
  let t := (425#16 * d) / 100#16
  if sector = 0#16 then ⟨255#16, t, 0#16⟩
  else if sector = 1#16 then ⟨255#16 - t, 255#16, 0#16⟩
  else if sector = 2#16 then ⟨0#16, 255#16, t⟩
  else if sector = 3#16 then ⟨0#16, 255#16 - t, 255#16⟩
  else if sector = 4#16 then ⟨t, 0#16, 255#16⟩
  else ⟨255#16, 0#16, 255#16 - t⟩

/-- Stages 3 and 4 at 16 bits, one channel. -/
def channel16 (s1 v1 c0 : BitVec 16) : Channel :=
  let c1 := c0 + ((255#16 - c0) * (100#16 - s1)) / 100#16
  ((c1 * v1) / 100#16).setWidth 8

/-- `hsv2rgb` as a 16-bit unsigned datapath computes it (R83). -/
def hsv2rgb16 (c : Hsv) : Pixel :=
  let s1 := min16 (c.s.setWidth 16) 100#16
  let v1 := min16 (c.v.setWidth 16) 100#16
  let x := hueStage16 (min16 c.h 359#16)
  { r := channel16 s1 v1 x.r, g := channel16 s1 v1 x.g, b := channel16 s1 v1 x.b }

/-- `HSV2RGB h, s, v` (R82): succeeds in every state, reads and writes none. -/
def execHsv2rgb (c : Hsv) (s : State) : Result := succeed (packRgb (hsv2rgb c)) s

end Sys2Proof.Machine
end

