-- ==== Sys2Proof/Machine/PixelOps.lean ====
section
/-! DEFINITION. The PixelBuffer setters (R90 to R96). None reads or writes BUSY or TB (R48, R90). -/

namespace Sys2Proof.Machine

/-- One pixel, bounds checked: the common body of `SET_ONE` and `SET_ONE_HSV`. -/
def setPixel (i : Idx) (p : Pixel) (s : State) : Result :=
  whenLive s (if indexInRange s i then succeed 0 (writePixel i.toNat p s) else fail .indexOutOfRange s)

/-- Every pixel: the common body of `SET_ALL`, `SET_ALL_HSV` and `CLEAR`. -/
def setPixels (p : Pixel) (s : State) : Result := whenLive s (succeed 0 (fillPixels p s))

/-- `SET_ONE i, r, g, b` (R91). -/
def execSetOne (i : Idx) (p : Pixel) (s : State) : Result := setPixel i p s

/-- `SET_ONE_HSV i, h, s, v` (R92). -/
def execSetOneHsv (i : Idx) (c : Hsv) (s : State) : Result := setPixel i (hsv2rgb c) s

/-- `SET_ALL r, g, b` (R93). -/
def execSetAll (p : Pixel) (s : State) : Result := setPixels p s

/-- `SET_ALL_HSV h, s, v` (R94). -/
def execSetAllHsv (c : Hsv) (s : State) : Result := setPixels (hsv2rgb c) s

/-- `SET_SPAN low, high, r, g, b` (R95): index check before order check, both bounds inclusive. -/
def execSetSpan (low high : Idx) (p : Pixel) (s : State) : Result :=
  whenLive s
    (if indexInRange s low ∧ indexInRange s high then
      if high.toNat < low.toNat then fail .invalidRange s else succeed 0 (fillSpan low.toNat high.toNat p s)
    else fail .indexOutOfRange s)

/-- `CLEAR` (R96). -/
def execClear (s : State) : Result := setPixels Pixel.black s

end Sys2Proof.Machine
end

