-- ==== Sys2Proof/Machine/Encoder.lean ====
section
/-! DEFINITION. The Encoder: PixelBuffer to TimingBuffer (R110 to R112), and the inverse bit-timing mapping (R115 (d)). -/

namespace Sys2Proof.Machine

/-- The symbol of one bit: `T1_COUNT` for 1, `T0_COUNT` for 0 (R44, R111). -/
def symbol (cfg : Config) (bit : Bool) : Nat := if bit then cfg.t1Count else cfg.t0Count

/-- The 24 elements of one pixel: `w = {g, r, b}`, element `k` is the symbol of `w[23 - k]` (R111). -/
def encodePixel (cfg : Config) (p : Pixel) : List Nat :=
  (List.range 24).map fun k => symbol cfg ((packWire p).getLsbD (23 - k))

/-- The off slots of the reset gap (R44, R111). -/
def resetGap (cfg : Config) : List Nat := List.replicate cfg.resetSlots Config.offCount

/-- `encode(pb, L, dis)` (R111), `L` being the number of pixels of `pb`. -/
def encodeFrame (cfg : Config) (pb : List Pixel) (dis : Bool) : List Nat :=
  if dis then List.replicate (24 * pb.length + cfg.resetSlots) Config.offCount
  else pb.flatMap (encodePixel cfg) ++ resetGap cfg

/-- A number read from symbols, most significant first: `T1_COUNT` is 1 (R115 (d)). -/
def readSymbols (cfg : Config) (l : List Nat) : Nat :=
  l.foldl (fun acc v => 2 * acc + if v = cfg.t1Count then 1 else 0) 0

/-- Pixel `p` recovered from the elements `24p .. 24p+23` of a TimingBuffer (R115 (d), the source's "decode (via the
inverse bit-timing mapping)"). -/
def recoverPixel (cfg : Config) (tb : List Nat) (p : Nat) : Pixel :=
  let at_ := fun k => readSymbols cfg ((tb.drop (24 * p + k)).take 8)
  { r := BitVec.ofNat 8 (at_ 8), g := BitVec.ofNat 8 (at_ 0), b := BitVec.ofNat 8 (at_ 16) }

/-- The PixelBuffer of `L` pixels recovered from a TimingBuffer. -/
def recoverPixels (cfg : Config) (L : Nat) (tb : List Nat) : List Pixel :=
  (List.range L).map (recoverPixel cfg tb)

end Sys2Proof.Machine
end

