-- ==== Sys2Proof/Machine/Transfer.lean ====
section
/-! DEFINITION. The TransferController: UPDATE with its hold and its proceed step, and NOTIFY (R120 to R128). -/

namespace Sys2Proof.Machine

/-- The proceed step of `UPDATE` (R121, R123), atomic and in the source's order: encode, then Busy, then start. `PB` and
`DISABLE` are those of this step (R128). A rejected start gives Idle back and keeps the new `TB` (R125 (b)). -/
def proceedUpdate (s : State) : Result :=
  let encoded := setBusy (writeTb (encodeFrame s.cfg s.pb s.disable) s)
  let n := tbLen s
  let answered := takeAnswer encoded
  if startAnswer encoded then .next (complete .ok 0 (some n) answered)
  else .next (complete .transferStartFailed 0 (some n) (clearBusy answered))

/-- `UPDATE` (R121): the lifecycle check without holding (R125 (a)), the hold while `BUSY = 1` (R122), the proceed step. -/
def execUpdate (s : State) : Result :=
  whenLive s (if s.busy then hold .update s else proceedUpdate s)

/-- `NOTIFY` (R126): `BUSY <- 0`, whatever it was and in every `LIFE`; no response; a held command stays held. -/
def execNotify (s : State) : Result := .next (quiet (clearBusy s))

end Sys2Proof.Machine
end

