-- ==== Sys2Proof/Machine/Transform.lean ====
section
/-! DEFINITION. BufferTransform: SHL, SHR, ROL, ROR (R100 to R105). The index sums are exact numbers, never reduced
modulo 2^16 (R100); the whole new buffer is computed from the whole old one. -/

namespace Sys2Proof.Machine

/-- The new buffer of `SHL n`: `if i + n < COUNT then old[i + n] else BLACK` (R101). -/
def shiftLeft (n : Nat) (s : State) : State :=
  rewritePixels (fun i _ => if i + n < s.count.toNat then pixelAt s.pb (i + n) else Pixel.black) s

/-- The new buffer of `SHR n`: `if n <= i then old[i - n] else BLACK` (R102). -/
def shiftRight (n : Nat) (s : State) : State :=
  rewritePixels (fun i _ => if n ≤ i then pixelAt s.pb (i - n) else Pixel.black) s

/-- The new buffer of `ROL n`: `old[(i + n) mod COUNT]` (R103). -/
def rotateLeft (n : Nat) (s : State) : State :=
  rewritePixels (fun i _ => pixelAt s.pb ((i + n) % s.count.toNat)) s

/-- The new buffer of `ROR n`: `old[(i + COUNT - n) mod COUNT]` (R104). -/
def rotateRight (n : Nat) (s : State) : State :=
  rewritePixels (fun i _ => pixelAt s.pb ((i + s.count.toNat - n) % s.count.toNat)) s

/-- `SHL n` (R101). -/
def execShl (n : Idx) (s : State) : Result := whenLive s (succeed 0 (shiftLeft n.toNat s))

/-- `SHR n` (R102). -/
def execShr (n : Idx) (s : State) : Result := whenLive s (succeed 0 (shiftRight n.toNat s))

/-- `ROL n` (R103): an amount at or above `COUNT` is `InvalidRange`, not reduced. -/
def execRol (n : Idx) (s : State) : Result :=
  whenLive s (if n.toNat < s.count.toNat then succeed 0 (rotateLeft n.toNat s) else fail .invalidRange s)

/-- `ROR n` (R104). -/
def execRor (n : Idx) (s : State) : Result :=
  whenLive s (if n.toNat < s.count.toNat then succeed 0 (rotateRight n.toNat s) else fail .invalidRange s)

end Sys2Proof.Machine
end

