-- ==== Sys2Proof/Machine/Dispatch.lean ====
section
/-! DEFINITION. exec: one arm per constructor of Instr. -/

namespace Sys2Proof.Machine

def exec (i : Instr) (s : State) : Host.Outcome State Fault Refusal :=
  match i with
  | .init count => Sys2Proof.Machine.execInit count s
  | .teardown => Sys2Proof.Machine.execTeardown s
  | .setDisable f => Sys2Proof.Machine.execSetDisable f s
  | .status => Sys2Proof.Machine.execStatus s
  | .setOne idx p => Sys2Proof.Machine.execSetOne idx p s
  | .setOneHsv idx c => Sys2Proof.Machine.execSetOneHsv idx c s
  | .setAll p => Sys2Proof.Machine.execSetAll p s
  | .setAllHsv c => Sys2Proof.Machine.execSetAllHsv c s
  | .setSpan low high p => Sys2Proof.Machine.execSetSpan low high p s
  | .clear => Sys2Proof.Machine.execClear s
  | .shl n => Sys2Proof.Machine.execShl n s
  | .shr n => Sys2Proof.Machine.execShr n s
  | .rol n => Sys2Proof.Machine.execRol n s
  | .ror n => Sys2Proof.Machine.execRor n s
  | .hsv2rgb c => Sys2Proof.Machine.execHsv2rgb c s
  | .update => Sys2Proof.Machine.execUpdate s
  | .notify => Sys2Proof.Machine.execNotify s

end Sys2Proof.Machine
end

