-- ==== Sys2Proof/Machine/Ports.lean ====
section
/-! DEFINITION. The ports (R62, R69, R70, R158): what each turn of the environment does. -/

namespace Sys2Proof.Machine

/-- The instruction a held command is (R30 (a)). -/
def Held.instr : Held → Instr
  | .update => .update
  | .teardown => .teardown

/-- The host presents a command word (R62). At most one command is outstanding: while one is held, a second is outside
the spec and the run has no meaning (R176, U1). A reserved opcode completes at once (R66). -/
def hostTurn (w : CommandWord) (s : State) : Result :=
  if s.held.isSome then .refused .commandWhileOutstanding
  else
    match decode (.command w) with
    | .ok i => exec i s
    | .error _ => illegalCommand s

/-- The CORE's own turn: a held command proceeds if `BUSY = 0` and else stays held (R122, R137); with none held the CORE
waits for the next command (R22, R166). -/
def coreTurn (s : State) : Result :=
  match s.held with
  | some h => exec h.instr s
  | none => .next (quiet s)

/-- The notify input (R70): level 1 is one `NOTIFY` step, level 0 is no event. -/
def notifyTurn (level : BitVec 1) (s : State) : Result :=
  match decode (.notify level) with
  | .ok i => exec i s
  | .error _ => .next (quiet s)

/-- One turn of the environment. -/
def runTurn (t : Turn) (s : State) : Result :=
  match t with
  | .host w => hostTurn w s
  | .core => coreTurn s
  | .notify level => notifyTurn level s
  | .tbRead j => .next (readTb j s)
  | .reset => .next (resetCore s)

/-- The next turn is taken from the list; where the environment lists none, the turn is the CORE's (log entry 9). -/
def nextTurn (s : State) : Result :=
  match s.turns with
  | t :: rest => runTurn t { s with turns := rest }
  | [] => coreTurn s

/-- A port word is presented next: the very next turn is the host's with that command word, or the collaborator's with
that level of the notify input. A command word finds the command port free (R62). -/
def present (p : PortWord) (s : State) : State :=
  match p with
  | .command w => { s with held := none, turns := .host w :: s.turns }
  | .notify level => { s with turns := .notify level :: s.turns }

end Sys2Proof.Machine
end

