-- ==== Sys2Proof/Machine/Step.lean ====
section
/-! DEFINITION. The step of the machine, and placing an instruction where the next step takes it from. -/

namespace Sys2Proof.Machine

/-- One step: a configuration that breaks R7 is refused (R7, U12); else the next turn is taken. -/
def step (s : State) : Host.Outcome State Fault Refusal :=
  if s.cfg.wellFormed then nextTurn s else .refused .badConfiguration

/-- The table word `w` of `nbits` bits is presented at its port, so that the next step runs it (log entries 1 and 14). -/
def State.withFetchWord (s : State) (nbits w : Nat) : State := present (tableWord nbits w) s

end Sys2Proof.Machine
end

