-- ==== Sys2Proof/Safety.lean ====
section
/-! DEFINITION. The terms claims are stated in: the invariant of every reachable state, the collaborator's contract, and
the shapes a command's result takes. -/

namespace Sys2Proof.Machine

/-- The outputs of a step that returns the response word `w` and does nothing else at the ports. -/
def responseOnly (w : ResponseWord) : Output := { response := some w, start := none, readData := none }

/-- State `s` after a command that returned the response word `w` and changed nothing: the CORE is ready for the next
command, every other field is as it was (R150). -/
def answered (w : ResponseWord) (s : State) : State := { s with held := none, out := responseOnly w }

/-- The bits of a command word that the form of an instruction uses, the opcode among them (R60, R61, R67). -/
def usedMask : Instr → CommandWord
  | .init _ | .shl _ | .shr _ | .rol _ | .ror _ => 0xFFFFFF0000000000#64
  | .teardown | .status | .clear | .update | .notify => 0xFF00000000000000#64
  | .setDisable _ => 0xFF00000000010000#64
  | .setOne .. => 0xFFFFFF0000FFFFFF#64
  | .setAll _ => 0xFF00000000FFFFFF#64
  | .setOneHsv .. => 0xFFFFFFFFFFFFFF00#64
  | .setAllHsv _ | .hsv2rgb _ => 0xFF0000FFFFFFFF00#64
  | .setSpan .. => 0xFFFFFFFFFFFFFFFF#64

/-- The sixteen opcodes of R65; the other 240 values are reserved (R66). -/
def definedOpcodes : List (BitVec 8) :=
  [0x01, 0x02, 0x03, 0x04, 0x10, 0x11, 0x12, 0x13, 0x14, 0x15, 0x20, 0x21, 0x22, 0x23, 0x30, 0x40]

/-- The setters and the transforms (R40, R90). -/
def isPixelInstr : Instr → Bool
  | .setOne .. | .setOneHsv .. | .setAll .. | .setAllHsv .. | .setSpan .. | .clear | .shl .. | .shr .. | .rol ..
  | .ror .. => true
  | _ => false

/-- The status field of a response word (R63). -/
def responseStatus (w : ResponseWord) : BitVec 4 := w.extractLsb' 28 4

/-- The invariant of every state reachable from reset. -/
structure Inv (s : State) : Prop where
  /-- The configuration keeps R7. -/
  cfg_wf : s.cfg.wellFormed = true
  /-- R33 (a), and R138: `DISABLE` is 0 in `UNINIT`. -/
  no_count : s.life ≠ .live → s.count = 0
  disable_clear : s.life = .uninit → s.disable = false
  /-- R33 (b). -/
  count_pos : s.life = .live → 1 ≤ s.count.toNat
  count_le : s.life = .live → s.count.toNat ≤ s.cfg.maxLeds
  /-- R33 (a), (c). -/
  busy_live : s.busy = true → s.life = .live
  /-- Only a live Instance has a held command (R121, R137). -/
  held_live : s.held ≠ none → s.life = .live
  /-- The memories are in canonical form. -/
  mem_wf : Memory.wf s = true
  /-- R42: the only values ever written. -/
  tb_values : ∀ v ∈ s.tb, v = 0 ∨ v = s.cfg.t0Count ∨ v = s.cfg.t1Count
  /-- R47: while a transfer is outstanding `TB` holds a whole frame. -/
  busy_frame : s.busy = true → s.tb.length = tbLen s

/-! ## The collaborator's contract (R172)

Which elements the collaborator has read is the collaborator's state and not the CORE's (R30 (b)): it is followed beside
the machine, and no rule of the CORE looks at it. (a) and (f) of R172 hold of every run of the model: the answer is part
of the proceed step, and the TB port has no write direction. (b) to (e) are named here as assumptions (log entry 19). -/

/-- A transfer the collaborator has accepted and not yet completed. -/
structure Transfer where
  /-- The element count `n` it was given by `start(n)` (R124). -/
  n : Nat
  /-- The indices below `n` it has not read yet. -/
  unread : List Nat
deriving DecidableEq, Repr

/-- The collaborator after the step from `s` to `t`, `c` before it. An accepted start begins a transfer, of which nothing
is read; a rejected one changes nothing. A read takes its index off the unread ones. A `NOTIFY` completes a transfer that
has been read whole; an early one leaves the collaborator reading (R173). A reset resets both together (R167). -/
def collaboratorAfter (c : Option Transfer) (s t : State) : Option Transfer :=
  match t.out.start with
  | some n => if t.busy then some { n := n, unread := List.range n } else c
  | none =>
    match s.turns with
    | .notify level :: _ => if level = 1#1 then c.filter (fun x => !x.unread.isEmpty) else c
    | .tbRead j :: _ => c.map fun x => { x with unread := x.unread.filter (· != j) }
    | .reset :: _ => none
    | _ => c

/-- The collaborator keeps its contract at the next step: it notifies only to complete a transfer of which it has read
every element (R172 (b), (c), (d)), and reads only during a transfer, below its count (R172 (b), (c), (e)). -/
def honoursContract (c : Option Transfer) (s : State) : Prop :=
  match s.turns with
  | .notify level :: _ => level = 1#1 → ∃ x, c = some x ∧ x.unread = []
  | .tbRead j :: _ => ∃ x, c = some x ∧ j < x.n
  | _ => True

/-- `k` steps of the machine with the collaborator followed beside it; none where a step gives no next state. -/
def runWith : Nat → State → Option Transfer → Option (State × Option Transfer)
  | 0, s, c => some (s, c)
  | k + 1, s, c =>
    match step s with
    | .next t => runWith k t (collaboratorAfter c s t)
    | .fault _ => none
    | .refused _ => none

/-- The collaborator keeps its contract for the whole run from `s`. -/
structure Contract (c : Option Transfer) (s : State) : Prop where
  /-- At every step (R172 (b) to (e)). -/
  every_turn : ∀ k t d, runWith k s c = some (t, d) → honoursContract d t
  /-- A transfer under way is completed in the end, so the owed `NOTIFY` comes (R172 (b), R130). -/
  notify_comes : ∀ k t x, runWith k s c = some (t, some x) → ∃ j u, runWith j t (some x) = some (u, none)

/-- `BUSY` says whether a transfer is under way, and the collaborator was given the current element count: what R25
promises "provided the collaborator keeps its contract". -/
structure InStep (c : Option Transfer) (s : State) : Prop where
  busy_iff : s.busy = true ↔ c ≠ none
  count_eq : ∀ x, c = some x → x.n = tbLen s

/-- The next step is one in which the collaborator accepts a start (R124, R131). -/
def acceptsStart (s : State) : Prop := ∃ t, step s = .next t ∧ t.out.start ≠ none ∧ t.busy = true

/-- The next turn ends the Busy state: a `NOTIFY` or a reset (R25, R122). -/
def endsBusy (s : State) : Prop := (∃ rest, s.turns = .notify 1#1 :: rest) ∨ ∃ rest, s.turns = .reset :: rest

/-- `k` steps, stopping where a step gives no next state. -/
def steps : Nat → State → Result
  | 0, s => .next s
  | k + 1, s =>
    match step s with
    | .next s' => steps k s'
    | .fault r => .fault r
    | .refused r => .refused r

/-- A turn that cannot end a hold and leaves the command port alone. -/
def passiveTurn : Turn → Bool
  | .core => true
  | .tbRead _ => true
  | .notify level => decide (level = 0#1)
  | .host _ => false
  | .reset => false

/-- The step taken from `s` is the instruction `i`: the host presents its word, or the CORE holds it and has the turn. -/
def runs (i : Instr) (s : State) : Prop :=
  (∃ w rest, s.turns = .host w :: rest ∧ decode (.command w) = .ok i) ∨
  ((s.turns = [] ∨ ∃ rest, s.turns = .core :: rest) ∧ ∃ h, s.held = some h ∧ h.instr = i)

/-- A line assembles to one command word with these six fields (R71). -/
def assemblesTo (l : AsmLine) (op a b c2 c1 c0 : Nat) : Prop :=
  ∃ w, l.assemble = some [.command w] ∧ (fieldOp w).toNat = op ∧ (fieldA w).toNat = a ∧ (fieldB w).toNat = b ∧
    (fieldC2 w).toNat = c2 ∧ (fieldC1 w).toNat = c1 ∧ (fieldC0 w).toNat = c0

end Sys2Proof.Machine
end

