-- ==== Sys2Proof/Certificates/Slice0/Obligations.lean ====
section
/-! DEFINITION. The statements for the provers. -/

open Sys2Proof Sys2Proof.Machine

/-! ## Encoding and the step -/

/-- R60, R65, R70: one word written out from the spec's encoding for each operand form, the NOTIFY event and a reserved
opcode. -/
def Obligations.WordsOfTheSpecDecode : Prop :=
  decode (.command 0x0100030000000000#64) = .ok (.init 3) ∧
  decode (.command 0x0312345678019ABC#64) = .ok (.setDisable true) ∧
  decode (.command 0x0400000000FFFFFF#64) = .ok .status ∧
  decode (.command 0x10000100000A141E#64) = .ok (.setOne 1 ⟨10, 20, 30⟩) ∧
  decode (.command 0x1100020078646400#64) = .ok (.setOneHsv 2 ⟨120, 100, 100⟩) ∧
  decode (.command 0x14000100030000FF#64) = .ok (.setSpan 1 3 ⟨0, 0, 255⟩) ∧
  decode (.command 0x20000200FFFFFFFF#64) = .ok (.shl 2) ∧
  decode (.command 0x30000000C8503C00#64) = .ok (.hsv2rgb ⟨200, 80, 60⟩) ∧
  decode (.command 0x40FFFFFFFFFFFFFF#64) = .ok .update ∧
  decode (.notify 1#1) = .ok .notify ∧
  decode (.notify 0#1) = .error .noEvent ∧
  decode (.command 0xFF00000000001234#64) = .error (.reservedOpcode 0xFF#8)

/-- R60, R61, R65, R71: for every instruction, with every operand at every value its field admits. -/
def Obligations.DecodeOfEncodeGivesTheInstruction : Prop :=
  ∀ i : Instr, decode (encode i) = .ok i

/-- R66: a word is rejected exactly when its opcode is not one of the sixteen of R65, and then by that opcode. -/
def Obligations.RejectedWordsAreThoseWithAReservedOpcode : Prop :=
  ∀ w : CommandWord,
    (w.extractLsb' 56 8 ∈ definedOpcodes → ∃ i, decode (.command w) = .ok i) ∧
    (w.extractLsb' 56 8 ∉ definedOpcodes → decode (.command w) = .error (.reservedOpcode (w.extractLsb' 56 8)))

/-- R67: words that differ only in fields the form does not use are the same command, with the same effect and response
in every state; the assembler writes zeros there. -/
def Obligations.IgnoredFieldsMakeNoDifference : Prop :=
  ∀ (w w' : CommandWord) (i : Instr), decode (.command w) = .ok i → w &&& usedMask i = w' &&& usedMask i →
    decode (.command w') = .ok i ∧ encode i = .command (w &&& usedMask i) ∧
    ∀ s : State, step { s with turns := .host w :: s.turns } = step { s with turns := .host w' :: s.turns }

/-- R71, R72: a line whose numbers fit their fields assembles to the word of its row, each number in its field and every
other field zero, `NOTIFY` to the event, and `BLACKOUT` to the words of `SET_DISABLE 1` and `UPDATE`; these words decode to
what the line stands for. A line with a number too large assembles to nothing (the model's choice, log entry 17). -/
def Obligations.AssembledLinesDecodeToTheirInstructions : Prop :=
  (∀ l : AsmLine, l.wellFormed = true →
    ∃ ps, l.assemble = some ps ∧ ps.map decode = l.instrs.map .ok) ∧
  (∀ l : AsmLine, l.wellFormed = false → l.assemble = none) ∧
  (∀ n : Nat, n < 65536 →
    assemblesTo (.init n) 0x01 n 0 0 0 0 ∧ assemblesTo (.shl n) 0x20 n 0 0 0 0 ∧
    assemblesTo (.shr n) 0x21 n 0 0 0 0 ∧ assemblesTo (.rol n) 0x22 n 0 0 0 0 ∧
    assemblesTo (.ror n) 0x23 n 0 0 0 0) ∧
  (∀ f : Nat, f < 2 → assemblesTo (.setDisable f) 0x03 0 0 f 0 0) ∧
  (assemblesTo .teardown 0x02 0 0 0 0 0 ∧ assemblesTo .status 0x04 0 0 0 0 0 ∧
    assemblesTo .clear 0x15 0 0 0 0 0 ∧ assemblesTo .update 0x40 0 0 0 0 0) ∧
  (∀ i r g b : Nat, i < 65536 → r < 256 → g < 256 → b < 256 →
    assemblesTo (.setOne i r g b) 0x10 i 0 r g b ∧ assemblesTo (.setAll r g b) 0x12 0 0 r g b ∧
    ∀ high : Nat, high < 65536 → assemblesTo (.setSpan i high r g b) 0x14 i high r g b) ∧
  (∀ i h s v : Nat, i < 65536 → h < 65536 → s < 256 → v < 256 →
    assemblesTo (.setOneHsv i h s v) 0x11 i h s v 0 ∧ assemblesTo (.setAllHsv h s v) 0x13 0 h s v 0 ∧
    assemblesTo (.hsv2rgb h s v) 0x30 0 h s v 0) ∧
  AsmLine.assemble .notify = some [.notify 1#1] ∧
  AsmLine.assemble (.setOne 1 10 20 30) = some [.command 0x10000100000A141E#64] ∧
  AsmLine.assemble .blackout = some [.command 0x0300000000010000#64, .command 0x4000000000000000#64]

/-- R10, R11, R62, R70, R122: a step takes the next turn off the list and runs exactly the instruction its word decodes
to, or the held command on the CORE's own turn; with nothing held the CORE waits. The list of turns, the
CORE's turn and the wait are the model's choice (log entries 1, 9 and 12). -/
def Obligations.StepRunsTheDecodedInstruction : Prop :=
  ∀ (s : State) (rest : List Turn), s.cfg.wellFormed = true →
    (∀ w i, s.turns = .host w :: rest → s.held = none → decode (.command w) = .ok i →
      step s = exec i { s with turns := rest }) ∧
    (s.turns = .notify 1#1 :: rest → step s = exec .notify { s with turns := rest }) ∧
    (s.turns = .notify 0#1 :: rest → step s = .next { s with turns := rest, out := Output.silent }) ∧
    (s.turns = .core :: rest → s.held = some .update → step s = exec .update { s with turns := rest }) ∧
    (s.turns = .core :: rest → s.held = some .teardown → step s = exec .teardown { s with turns := rest }) ∧
    (s.turns = .core :: rest → s.held = none → step s = .next { s with turns := rest, out := Output.silent }) ∧
    (s.turns = [] → s.held = some .update → step s = exec .update s) ∧
    (s.turns = [] → s.held = some .teardown → step s = exec .teardown s) ∧
    (s.turns = [] → s.held = none → step s = .next { s with out := Output.silent })

/-- R66, R154: a reserved opcode answers `IllegalCommand` with `DATA = 0` in every `LIFE` and for either `BUSY`, and
changes no state. -/
def Obligations.ReservedOpcodeAnswersIllegalCommand : Prop :=
  ∀ (s : State) (w : CommandWord) (rest : List Turn), s.cfg.wellFormed = true → s.held = none →
    s.turns = .host w :: rest → w.extractLsb' 56 8 ∉ definedOpcodes →
    step s = .next (answered 0x60000000#32 { s with turns := rest })

/-- R7, R62, R176: the only runs the model refuses are those with a configuration that breaks R7 and those in which the
host presents a second command while one is outstanding (log entries 3 and 8); no step faults. -/
def Obligations.OnlyTwoRunsAreRefused : Prop :=
  ∀ s : State,
    (s.cfg.wellFormed = false → step s = .refused .badConfiguration) ∧
    (s.cfg.wellFormed = true → ∀ w rest, s.turns = .host w :: rest → s.held ≠ none →
      step s = .refused .commandWhileOutstanding) ∧
    (s.cfg.wellFormed = true → (s.held = none ∨ ∀ w rest, s.turns ≠ .host w :: rest) → ∃ t, step s = .next t)

/-- R62, R145: every command, from every state, completes with exactly one response and holds nothing, or is `UPDATE`
or `TEARDOWN` held because a transfer is outstanding, with no response; `NOTIFY` has no response. -/
def Obligations.EveryCommandAnswersOnceOrIsHeld : Prop :=
  ∀ (i : Instr) (s : State), ∃ t, exec i s = .next t ∧
    ((i ≠ .notify ∧ t.held = none ∧ t.out.readData = none ∧ ∃ w, t.out.response = some w) ∨
     (i = .update ∧ s.life = .live ∧ s.busy = true ∧ t.held = some .update ∧ t.out = Output.silent) ∨
     (i = .teardown ∧ s.life = .live ∧ s.busy = true ∧ t.held = some .teardown ∧ t.out = Output.silent) ∨
     (i = .notify ∧ t.held = s.held ∧ t.out = Output.silent))

/-! ## Colour -/

/-- The hue wheel at full saturation and value. The assignment of channels to sectors and the falling ramp are the
spec's own, "from general knowledge, not in source" (R84, 93_implementation_defined.md G1; log entry 10). -/
def Obligations.HueWheelAtFullSaturationAndValue : Prop :=
  ∀ (c : Hsv) (d : Nat), 100 ≤ c.s.toNat → 100 ≤ c.v.toNat → d < 60 →
    let t := BitVec.ofNat 8 (425 * d / 100)
    (c.h.toNat = d → hsv2rgb c = ⟨255, t, 0⟩) ∧
    (c.h.toNat = 60 + d → hsv2rgb c = ⟨255 - t, 255, 0⟩) ∧
    (c.h.toNat = 120 + d → hsv2rgb c = ⟨0, 255, t⟩) ∧
    (c.h.toNat = 180 + d → hsv2rgb c = ⟨0, 255 - t, 255⟩) ∧
    (c.h.toNat = 240 + d → hsv2rgb c = ⟨t, 0, 255⟩) ∧
    (c.h.toNat = 300 + d → hsv2rgb c = ⟨255, 0, 255 - t⟩) ∧
    (359 ≤ c.h.toNat → hsv2rgb c = ⟨255, 0, 5⟩)

/-- R81 stages 3 and 4: from the colour of the same hue at full saturation and value, each channel is blended toward
white from its own value and then scaled, with truncating division by 100 after the whole product. -/
def Obligations.SaturationBlendsThenValueScales : Prop :=
  ∀ c : Hsv,
    let full := hsv2rgb { c with s := 100, v := 100 }
    let s1 := min c.s.toNat 100
    let v1 := min c.v.toNat 100
    let f := fun x : Nat => (x + (255 - x) * (100 - s1) / 100) * v1 / 100
    (hsv2rgb c).r.toNat = f full.r.toNat ∧ (hsv2rgb c).g.toNat = f full.g.toNat ∧ (hsv2rgb c).b.toNat = f full.b.toNat

/-- R80: the clamp saturates and does not wrap. -/
def Obligations.HsvOperandsSaturate : Prop :=
  ∀ c : Hsv,
    (359 ≤ c.h.toNat → hsv2rgb c = hsv2rgb { c with h := 359 }) ∧
    (100 ≤ c.s.toNat → hsv2rgb c = hsv2rgb { c with s := 100 }) ∧
    (100 ≤ c.v.toNat → hsv2rgb c = hsv2rgb { c with v := 100 })

/-- R83: a 16-bit unsigned datapath, wrapping at every operation, computes the exact result for every operand. -/
def Obligations.SixteenBitDatapathIsExact : Prop :=
  ∀ c : Hsv, hsv2rgb16 c = hsv2rgb c

/-- R82: `HSV2RGB` answers `OK` with `{r, g, b}` in every state and changes none; value 0 gives black, saturation 0 a
grey. -/
def Obligations.Hsv2rgbAnswersThePackedPixelInEveryState : Prop :=
  (∀ (c : Hsv) (s : State), ∃ w, exec (.hsv2rgb c) s = .next (answered w s) ∧ w.extractLsb' 24 8 = 0#8 ∧
    w.extractLsb' 16 8 = (hsv2rgb c).r ∧ w.extractLsb' 8 8 = (hsv2rgb c).g ∧ w.extractLsb' 0 8 = (hsv2rgb c).b) ∧
  (∀ c : Hsv, c.v = 0 → hsv2rgb c = ⟨0, 0, 0⟩) ∧
  (∀ c : Hsv, c.s = 0 →
    let x := BitVec.ofNat 8 (255 * min c.v.toNat 100 / 100)
    hsv2rgb c = ⟨x, x, x⟩)

/-! ## PixelBuffer setters -/

/-- R91, R92: `SET_ONE i, r, g, b`, and `SET_ONE_HSV i, h, s, v` with the converted pixel. -/
def Obligations.SetOneOverwritesExactlyOnePixel : Prop :=
  ∀ (ins : Instr) (i : Idx) (p : Pixel) (s : State),
    (ins = .setOne i p ∨ ∃ c, ins = .setOneHsv i c ∧ p = hsv2rgb c) →
    (s.life ≠ .live → exec ins s = .next (answered 0x30000000#32 s)) ∧
    (s.life = .live → s.count.toNat ≤ i.toNat → exec ins s = .next (answered 0x10000000#32 s)) ∧
    (s.life = .live → Memory.wf s = true → i.toNat < s.count.toNat →
      ∃ pb, exec ins s = .next { answered 0x00000000#32 s with pb := pb } ∧
        pb.length = s.pb.length ∧ pb[i.toNat]? = some p ∧ ∀ j, j ≠ i.toNat → pb[j]? = s.pb[j]?)

/-- R93, R94, R96: `SET_ALL`, `SET_ALL_HSV` and `CLEAR` overwrite every pixel. -/
def Obligations.SetAllOverwritesEveryPixel : Prop :=
  ∀ (ins : Instr) (p : Pixel) (s : State),
    (ins = .setAll p ∨ (∃ c, ins = .setAllHsv c ∧ p = hsv2rgb c) ∨ (ins = .clear ∧ p = ⟨0, 0, 0⟩)) →
    (s.life ≠ .live → exec ins s = .next (answered 0x30000000#32 s)) ∧
    (s.life = .live → Memory.wf s = true →
      exec ins s = .next { answered 0x00000000#32 s with pb := List.replicate s.count.toNat p })

/-- R95: `SET_SPAN low, high, r, g, b`, index check before order check, both bounds inclusive. -/
def Obligations.SetSpanOverwritesTheSpan : Prop :=
  ∀ (low high : Idx) (p : Pixel) (s : State),
    (s.life ≠ .live → exec (.setSpan low high p) s = .next (answered 0x30000000#32 s)) ∧
    (s.life = .live → s.count.toNat ≤ low.toNat ∨ s.count.toNat ≤ high.toNat →
      exec (.setSpan low high p) s = .next (answered 0x10000000#32 s)) ∧
    (s.life = .live → low.toNat < s.count.toNat → high.toNat < s.count.toNat → high.toNat < low.toNat →
      exec (.setSpan low high p) s = .next (answered 0x20000000#32 s)) ∧
    (s.life = .live → Memory.wf s = true → low.toNat ≤ high.toNat → high.toNat < s.count.toNat →
      ∃ pb, exec (.setSpan low high p) s = .next { answered 0x00000000#32 s with pb := pb } ∧
        pb.length = s.pb.length ∧
        (∀ j, low.toNat ≤ j → j ≤ high.toNat → pb[j]? = some p) ∧
        ∀ j, (j < low.toNat ∨ high.toNat < j) → pb[j]? = s.pb[j]?)

/-- R48: setters and transforms execute the same whatever `BUSY` is, and touch neither `BUSY` nor `TB`. -/
def Obligations.PixelCommandsIgnoreBusyAndLeaveTb : Prop :=
  ∀ (i : Instr) (s : State) (b : Bool), isPixelInstr i = true →
    ∃ t, exec i s = .next t ∧ exec i { s with busy := b } = .next { t with busy := b } ∧
      t.busy = s.busy ∧ t = { s with pb := t.pb, held := none, out := t.out } ∧ t.pb.length = s.pb.length

/-! ## BufferTransform -/

/-- R101: `SHL n`, every 16-bit amount legal, the sum `i + n` exact. -/
def Obligations.ShlShiftsTowardIndexZero : Prop :=
  ∀ (n : Idx) (s : State),
    (s.life ≠ .live → exec (.shl n) s = .next (answered 0x30000000#32 s)) ∧
    (s.life = .live → Memory.wf s = true →
      ∃ pb, exec (.shl n) s = .next { answered 0x00000000#32 s with pb := pb } ∧ pb.length = s.pb.length ∧
        ∀ j, j < s.count.toNat →
          pb[j]? = if j + n.toNat < s.count.toNat then s.pb[j + n.toNat]? else some ⟨0, 0, 0⟩)

/-- R102: `SHR n`, every 16-bit amount legal. -/
def Obligations.ShrShiftsAwayFromIndexZero : Prop :=
  ∀ (n : Idx) (s : State),
    (s.life ≠ .live → exec (.shr n) s = .next (answered 0x30000000#32 s)) ∧
    (s.life = .live → Memory.wf s = true →
      ∃ pb, exec (.shr n) s = .next { answered 0x00000000#32 s with pb := pb } ∧ pb.length = s.pb.length ∧
        ∀ j, j < s.count.toNat → pb[j]? = if n.toNat ≤ j then s.pb[j - n.toNat]? else some ⟨0, 0, 0⟩)

/-- R103: `ROL n`; an amount at or above `COUNT` is `InvalidRange`. -/
def Obligations.RolTurnsTheRingLeft : Prop :=
  ∀ (n : Idx) (s : State),
    (s.life ≠ .live → exec (.rol n) s = .next (answered 0x30000000#32 s)) ∧
    (s.life = .live → s.count.toNat ≤ n.toNat → exec (.rol n) s = .next (answered 0x20000000#32 s)) ∧
    (s.life = .live → Memory.wf s = true → n.toNat < s.count.toNat →
      ∃ pb, exec (.rol n) s = .next { answered 0x00000000#32 s with pb := pb } ∧ pb.length = s.pb.length ∧
        ∀ j, j < s.count.toNat → pb[j]? = s.pb[(j + n.toNat) % s.count.toNat]?)

/-- R104: `ROR n`: the element at index `j` becomes the new element at `(j + n) mod COUNT`. -/
def Obligations.RorTurnsTheRingRight : Prop :=
  ∀ (n : Idx) (s : State),
    (s.life ≠ .live → exec (.ror n) s = .next (answered 0x30000000#32 s)) ∧
    (s.life = .live → s.count.toNat ≤ n.toNat → exec (.ror n) s = .next (answered 0x20000000#32 s)) ∧
    (s.life = .live → Memory.wf s = true → n.toNat < s.count.toNat →
      ∃ pb, exec (.ror n) s = .next { answered 0x00000000#32 s with pb := pb } ∧ pb.length = s.pb.length ∧
        ∀ j, j < s.count.toNat → pb[(j + n.toNat) % s.count.toNat]? = s.pb[j]?)

/-- R106 (a): rotating by the same amount the other way restores the buffer. -/
def Obligations.RotationsUndoEachOther : Prop :=
  ∀ (n : Idx) (s : State), s.life = .live → Memory.wf s = true → n.toNat < s.count.toNat →
    (∃ t u, exec (.rol n) s = .next t ∧ exec (.ror n) t = .next u ∧ u.pb = s.pb) ∧
    (∃ t u, exec (.ror n) s = .next t ∧ exec (.rol n) t = .next u ∧ u.pb = s.pb)

/-- R106 (b): `ROL a` then `ROL b` is `ROL ((a + b) mod COUNT)`. -/
def Obligations.LeftRotationsAddUp : Prop :=
  ∀ (a b c : Idx) (s : State), s.life = .live → Memory.wf s = true → a.toNat < s.count.toNat →
    b.toNat < s.count.toNat → c.toNat = (a.toNat + b.toNat) % s.count.toNat →
    ∃ t u v, exec (.rol a) s = .next t ∧ exec (.rol b) t = .next u ∧ exec (.rol c) s = .next v ∧ u = v

/-- R106 (c): shifts one way add up while the sum fits 16 bits. -/
def Obligations.ShiftsAddUp : Prop :=
  ∀ (a b c : Idx) (s : State), s.life = .live → Memory.wf s = true → c.toNat = a.toNat + b.toNat →
    (∃ t u v, exec (.shl a) s = .next t ∧ exec (.shl b) t = .next u ∧ exec (.shl c) s = .next v ∧ u = v) ∧
    (∃ t u v, exec (.shr a) s = .next t ∧ exec (.shr b) t = .next u ∧ exec (.shr c) s = .next v ∧ u = v)

/-- R106 (d): `SHL n` then `SHR n` keeps `old[n .. COUNT-1]` in place and blackens the first `min(n, COUNT)` pixels. -/
def Obligations.ShiftThereAndBackBlackensTheLowEnd : Prop :=
  ∀ (n : Idx) (s : State), s.life = .live → Memory.wf s = true →
    ∃ t u, exec (.shl n) s = .next t ∧ exec (.shr n) t = .next u ∧
      ∀ j, j < s.count.toNat → u.pb[j]? = if j < n.toNat then some ⟨0, 0, 0⟩ else s.pb[j]?

/-! ## Encoder -/

/-- R44, R111: the address map of an encoded frame. -/
def Obligations.EncodedFrameHasTheAddressMap : Prop :=
  ∀ (cfg : Config) (pb : List Pixel),
    let sym := fun bit : Bool => if bit then cfg.t1Count else cfg.t0Count
    (∀ (p k : Nat) (px : Pixel), pb[p]? = some px → k < 8 →
      (encodeFrame cfg pb false)[24 * p + k]? = some (sym (px.g.getLsbD (7 - k))) ∧
      (encodeFrame cfg pb false)[24 * p + 8 + k]? = some (sym (px.r.getLsbD (7 - k))) ∧
      (encodeFrame cfg pb false)[24 * p + 16 + k]? = some (sym (px.b.getLsbD (7 - k)))) ∧
    (∀ q, q < cfg.resetSlots → (encodeFrame cfg pb false)[24 * pb.length + q]? = some 0) ∧
    (∀ j, j < 24 * pb.length + cfg.resetSlots → (encodeFrame cfg pb true)[j]? = some 0) ∧
    (∀ dis, (encodeFrame cfg pb dis)[24 * pb.length + cfg.resetSlots]? = none)

/-- R112: with the flag set every element is 0 whatever the pixels, in the same number as without it; and this is not
what black pixels encode to, 24 `T0_COUNT` each. -/
def Obligations.DisabledFrameIsAllOffAndNotBlack : Prop :=
  ∀ (cfg : Config) (pb : List Pixel), cfg.wellFormed = true → pb ≠ [] →
    (∀ v ∈ encodeFrame cfg pb true, v = 0) ∧
    (encodeFrame cfg pb true).length = (encodeFrame cfg pb false).length ∧
    (encodeFrame cfg (pb.map fun _ => ⟨0, 0, 0⟩) false).take (24 * pb.length) =
      List.replicate (24 * pb.length) cfg.t0Count ∧
    encodeFrame cfg (pb.map fun _ => ⟨0, 0, 0⟩) false ≠ encodeFrame cfg pb true

/-- R115 (d): the inverse bit-timing mapping recovers every pixel from an encoded frame. -/
def Obligations.EncodedFrameDecodesBackToThePixels : Prop :=
  ∀ (cfg : Config) (pb : List Pixel), cfg.t0Count ≠ cfg.t1Count →
    recoverPixels cfg pb.length (encodeFrame cfg pb false) = pb

/-! ## TransferController -/

/-- R121, R122, R125: `UPDATE` in every case, for both answers to `start(n)`. The answer is the next the environment
lists, or the free value where it lists none (log entry 4); the rest of the effect is the same for every answer. -/
def Obligations.UpdateEncodesAndStarts : Prop :=
  ∀ s : State,
    (s.life ≠ .live → exec .update s = .next (answered 0x30000000#32 s)) ∧
    (s.life = .live → s.busy = true →
      exec .update s = .next { s with held := some .update, out := Output.silent }) ∧
    (s.life = .live → s.busy = false → ∀ (a : Bool) (answers : List Bool) (draws : Nat),
      (s.answers = a :: answers ∧ draws = s.draws) ∨
        (s.answers = [] ∧ answers = [] ∧ a = Config.freeStartAnswer s.draws ∧ draws = s.draws + 1) →
      exec .update s = .next
        { s with
          tb := encodeFrame s.cfg s.pb s.disable, busy := a, held := none, answers := answers, draws := draws,
          out := { response := some (if a then 0x00000000#32 else 0x50000000#32),
                   start := some (24 * s.count.toNat + s.cfg.resetSlots), readData := none } })

/-- R126: `NOTIFY` writes 0 to `BUSY` whatever it was, in every `LIFE`; no response, nothing else changes. -/
def Obligations.NotifyEndsBusyAndNothingElse : Prop :=
  ∀ s : State, exec .notify s = .next { s with busy := false, out := Output.silent }

/-- R47, R123 (a): no step but reset writes `TB` while a transfer is outstanding, and the only step that writes it at all
is the proceed step of `UPDATE`; releasing it is `TEARDOWN`'s, presented or held, and reset's. -/
def Obligations.TbIsImmutableDuringATransfer : Prop :=
  ∀ s t : State, step s = .next t →
    (s.busy = true → (∀ rest, s.turns ≠ .reset :: rest) → t.tb = s.tb) ∧
    (t.tb ≠ s.tb →
      (t.tb = [] ∧ ((∃ rest, s.turns = .reset :: rest) ∨
        (runs .teardown s ∧ s.life = .live ∧ s.busy = false ∧ t.life = .dead))) ∨
      (runs .update s ∧ s.life = .live ∧ s.busy = false ∧ t.tb = encodeFrame s.cfg s.pb s.disable ∧
        t.out.start = some (24 * s.count.toNat + s.cfg.resetSlots)))

/-- R25, R120: who changes `BUSY`. -/
def Obligations.BusyRisesOnlyAtAnAcceptedStart : Prop :=
  ∀ s t : State, step s = .next t →
    (s.busy = false → t.busy = true →
      s.life = .live ∧ t.life = .live ∧ t.tb = encodeFrame s.cfg s.pb s.disable ∧ t.out.response = some 0x00000000#32 ∧
        t.out.start = some (24 * s.count.toNat + s.cfg.resetSlots)) ∧
    (s.busy = true → t.busy = false → endsBusy s)

/-- R124: a start request is made only by a proceed step, with the current element count. -/
def Obligations.StartIsRequestedOnlyByAProceedStep : Prop :=
  ∀ (s t : State) (n : Nat), step s = .next t → t.out.start = some n →
    n = 24 * s.count.toNat + s.cfg.resetSlots ∧ s.life = .live ∧ s.busy = false ∧
    t.tb = encodeFrame s.cfg s.pb s.disable ∧
    (s.held = some .update ∨ ∃ w rest, s.turns = .host w :: rest ∧ decode (.command w) = .ok .update)

/-- R122: while `BUSY = 1` a held command changes nothing and gives no response; only a `NOTIFY` or a reset
ends that. That a wait is a step is the model's choice (log entry 9). -/
def Obligations.HoldChangesNothing : Prop :=
  ∀ (s t : State) (h : Held), s.life = .live → s.busy = true → s.held = some h → ¬ endsBusy s → step s = .next t →
    t = { s with turns := s.turns.tail, draws := t.draws, out := t.out } ∧
    t.out.response = none ∧ t.out.start = none

/-- R128, R130, R137: however long the hold, and whatever reads and idle notify levels come between the owed `NOTIFY` and
the CORE's next turn, that turn completes the held command; `UPDATE` encodes `PB` and `DISABLE` as they are at the proceed
step, `TEARDOWN` releases the Instance. The turn of the CORE, which an empty list is too, is the model's choice (log
entry 9). -/
def Obligations.HeldCommandCompletesAfterNotify : Prop :=
  ∀ (s : State) (before after own rest : List Turn) (h : Held), s.cfg.wellFormed = true → s.life = .live →
    s.busy = true → s.held = some h → s.turns = before ++ .notify 1#1 :: (after ++ own) →
    (own = .core :: rest ∨ own = [] ∧ rest = []) → (∀ t ∈ before, passiveTurn t = true) →
    (∀ t ∈ after, passiveTurn t = true ∧ t ≠ .core) →
    ∃ t, steps (before.length + 1 + after.length + 1) s = .next t ∧ t.held = none ∧ t.turns = rest ∧
      t.out.response ≠ none ∧
      (h = .update → t.tb = encodeFrame s.cfg s.pb s.disable ∧ t.pb = s.pb ∧ t.count = s.count ∧ t.life = .live) ∧
      (h = .teardown → t.life = .dead ∧ t.count = 0 ∧ t.pb = [] ∧ t.tb = [] ∧ t.busy = false)

/-- R131: between any two accepted starts of a run there is a `NOTIFY` (or a reset). -/
def Obligations.NoSecondStartBeforeNotify : Prop :=
  ∀ (k : Nat) (s s' t : State), acceptsStart s → step s = .next s' → steps k s' = .next t → acceptsStart t →
    ∃ (j : Nat) (u : State), j < k ∧ steps j s' = .next u ∧ endsBusy u

/-- R127: a `NOTIFY` at the same instant as a host step is applied first, and the host's command then runs. The order in the
list of turns is the model's form of it (log entry 1). -/
def Obligations.NotifyAtTheSameInstantGoesFirst : Prop :=
  ∀ (s : State) (w : CommandWord) (i : Instr) (rest : List Turn), s.cfg.wellFormed = true → s.held = none →
    s.turns = sameInstant 1#1 (.host w) ++ rest → decode (.command w) = .ok i →
    ∃ u, step s = .next u ∧ step u = exec i { s with busy := false, turns := rest, out := Output.silent }

/-- R51: a read of an element an encode has written returns it and changes nothing; every other read returns some
`TC_W`-bit value, which is a free value (log entry 5), and changes nothing of the CORE. -/
def Obligations.TbReadReturnsTheEncodedElement : Prop :=
  ∀ (s : State) (j : Nat) (rest : List Turn), s.cfg.wellFormed = true → s.turns = .tbRead j :: rest →
    (∀ v, s.life = .live → j < 24 * s.count.toNat + s.cfg.resetSlots → s.tb[j]? = some v →
      step s = .next { s with turns := rest, out := { response := none, start := none, readData := some v } }) ∧
    ((s.life ≠ .live ∨ 24 * s.count.toNat + s.cfg.resetSlots ≤ j ∨ s.tb[j]? = none) →
      ∃ v, v < 2 ^ s.cfg.tcW ∧
        step s = .next
          { s with turns := rest, draws := s.draws + 1,
                   out := { response := none, start := none, readData := some v } })

/-- R52 (a), R172: a collaborator that keeps its contract reads, from a state of a run, exactly the elements of the frame
the last `UPDATE` wrote. The collaborator is followed beside the machine (log entry 19). -/
def Obligations.HonestReadsSeeTheFrame : Prop :=
  ∀ (s : State) (c : Option Transfer) (j : Nat) (rest : List Turn), Inv s → InStep c s → honoursContract c s →
    s.turns = .tbRead j :: rest →
    ∃ t v, step s = .next t ∧ s.tb[j]? = some v ∧ t.out.readData = some v ∧ t.tb = s.tb ∧ t.draws = s.draws

/-! ## Lifecycle and status -/

/-- R136: `INIT count`, checks in the rule's order. -/
def Obligations.InitClaimsABlackBuffer : Prop :=
  ∀ (count : Idx) (s : State),
    (s.life = .dead → exec (.init count) s = .next (answered 0x30000000#32 s)) ∧
    (s.life = .live → exec (.init count) s = .next (answered 0x40000000#32 s)) ∧
    (s.life = .uninit → count.toNat = 0 → exec (.init count) s = .next (answered 0x20000000#32 s)) ∧
    (s.life = .uninit → s.cfg.maxLeds < count.toNat → exec (.init count) s = .next (answered 0x40000000#32 s)) ∧
    (s.life = .uninit → 1 ≤ count.toNat → count.toNat ≤ s.cfg.maxLeds →
      exec (.init count) s = .next
        { answered 0x00000000#32 s with
          count := count, life := .live, pb := List.replicate count.toNat ⟨0, 0, 0⟩ })

/-- R137: `TEARDOWN` holds while a transfer is outstanding and releases both buffers, which are then empty lists (log
entry 6); `DISABLE` keeps its value. -/
def Obligations.TeardownReleasesTheInstance : Prop :=
  ∀ s : State,
    (s.life ≠ .live → exec .teardown s = .next (answered 0x30000000#32 s)) ∧
    (s.life = .live → s.busy = true →
      exec .teardown s = .next { s with held := some .teardown, out := Output.silent }) ∧
    (s.life = .live → s.busy = false →
      exec .teardown s = .next { answered 0x00000000#32 s with count := 0, life := .dead, pb := [], tb := [] })

/-- R138: `SET_DISABLE f` writes the flag and nothing else, whatever `BUSY` is. -/
def Obligations.SetDisableWritesTheFlagOnly : Prop :=
  ∀ (f : Bool) (s : State),
    (s.life ≠ .live → exec (.setDisable f) s = .next (answered 0x30000000#32 s)) ∧
    (s.life = .live → exec (.setDisable f) s = .next { answered 0x00000000#32 s with disable := f })

/-- R29, R139: `STATUS` answers `OK` in every state with the image, bit by bit, and changes nothing. -/
def Obligations.StatusReadsTheControlState : Prop :=
  ∀ s : State, ∃ w : ResponseWord, exec .status s = .next (answered w s) ∧
    w.getLsbD 0 = s.busy ∧
    (s.life = .uninit → w.extractLsb' 1 2 = 0#2) ∧ (s.life = .live → w.extractLsb' 1 2 = 1#2) ∧
    (s.life = .dead → w.extractLsb' 1 2 = 2#2) ∧
    w.getLsbD 3 = s.disable ∧ w.extractLsb' 4 4 = 0#4 ∧ w.extractLsb' 8 16 = s.count ∧ w.extractLsb' 24 8 = 0#8

/-- R23: the only transitions of `LIFE`; in particular `DEAD` is left only by reset. -/
def Obligations.LifeChangesOnlyByInitTeardownReset : Prop :=
  ∀ s t : State, step s = .next t → t.life ≠ s.life →
    (s.life = .uninit ∧ t.life = .live ∧
      ∃ w rest c, s.turns = .host w :: rest ∧ decode (.command w) = .ok (.init c) ∧ t.count = c) ∨
    (s.life = .live ∧ t.life = .dead ∧ s.busy = false ∧
      (s.held = some .teardown ∨ ∃ w rest, s.turns = .host w :: rest ∧ decode (.command w) = .ok .teardown)) ∨
    (t.life = .uninit ∧ ∃ rest, s.turns = .reset :: rest)

/-- R24, R27: while the Instance lives its LED count and the length of its PixelBuffer never change. -/
def Obligations.LedCountIsFixedWhileLive : Prop :=
  ∀ s t : State, step s = .next t → s.life = .live → t.life = .live →
    t.count = s.count ∧ t.pb.length = s.pb.length

/-- R20, R169: what each instruction may write. A state item not named for an instruction is unchanged by it, and no
instruction changes the configuration or what the environment does next. -/
def Obligations.OnlyTheNamedInstructionsWriteEachItem : Prop :=
  ∀ (i : Instr) (s t : State), exec i s = .next t →
    (t.life ≠ s.life → (∃ c, i = .init c) ∨ i = .teardown) ∧
    (t.count ≠ s.count → (∃ c, i = .init c) ∨ i = .teardown) ∧
    (t.busy ≠ s.busy → i = .update ∨ i = .notify) ∧
    (t.disable ≠ s.disable → ∃ f, i = .setDisable f) ∧
    (t.pb ≠ s.pb → (∃ c, i = .init c) ∨ i = .teardown ∨ isPixelInstr i = true) ∧
    (t.tb ≠ s.tb → i = .update ∨ i = .teardown) ∧
    (t.answers ≠ s.answers ∨ t.draws ≠ s.draws → i = .update) ∧
    t.cfg = s.cfg ∧ t.turns = s.turns

/-! ## Errors -/

/-- R149: with no live Instance every command that needs one answers `NotInitialized`, whatever its operands, and changes
nothing. -/
def Obligations.NoInstanceMeansNotInitialized : Prop :=
  ∀ (i : Instr) (s : State), s.life ≠ .live → i ≠ .status → (∀ c, i ≠ .hsv2rgb c) → i ≠ .notify →
    (s.life = .uninit → ∀ c, i ≠ .init c) → exec i s = .next (answered 0x30000000#32 s)

/-- R150: a command that reports an error changes no state, except `UPDATE` with `TransferStartFailed`, after which `TB`
holds the fresh encoding; an error carries `DATA = 0`. -/
def Obligations.FailingCommandsChangeNothing : Prop :=
  ∀ (i : Instr) (s t : State) (w : ResponseWord), exec i s = .next t → t.out.response = some w →
    responseStatus w ≠ 0#4 →
    w.extractLsb' 0 24 = 0#24 ∧
    (t = answered w s ∨
      (i = .update ∧ w = 0x50000000#32 ∧
        t = { s with tb := encodeFrame s.cfg s.pb s.disable, held := none, answers := t.answers, draws := t.draws,
                     out := t.out }))

/-- R63, R64: in every response the reserved bits are 0, the status is one of 0 to 5 (6 is the reserved opcode's), and
`DATA` is 0 but for `STATUS` and `HSV2RGB`, which report no error. -/
def Obligations.ResponseWordsHaveTheLayout : Prop :=
  ∀ (i : Instr) (s t : State) (w : ResponseWord), exec i s = .next t → t.out.response = some w →
    w.extractLsb' 24 4 = 0#4 ∧ (responseStatus w).toNat ≤ 5 ∧
    (i = .status ∨ (∃ c, i = .hsv2rgb c) → responseStatus w = 0#4) ∧
    (i ≠ .status → (∀ c, i ≠ .hsv2rgb c) → w.extractLsb' 0 24 = 0#24)

/-- R146: which command can report which code, and why; `IllegalCommand` is the reserved opcodes' alone. -/
def Obligations.EachErrorHasItsCause : Prop :=
  ∀ (i : Instr) (s t : State) (w : ResponseWord), exec i s = .next t → t.out.response = some w →
    (responseStatus w = 1#4 → s.life = .live ∧
      ((∃ x p, i = .setOne x p ∧ s.count.toNat ≤ x.toNat) ∨ (∃ x c, i = .setOneHsv x c ∧ s.count.toNat ≤ x.toNat) ∨
       ∃ low high p, i = .setSpan low high p ∧ (s.count.toNat ≤ low.toNat ∨ s.count.toNat ≤ high.toNat))) ∧
    (responseStatus w = 2#4 →
      (∃ c, i = .init c ∧ s.life = .uninit ∧ c.toNat = 0) ∨
      (∃ low high p, i = .setSpan low high p ∧ s.life = .live ∧ high.toNat < low.toNat) ∨
      (∃ n, (i = .rol n ∨ i = .ror n) ∧ s.life = .live ∧ s.count.toNat ≤ n.toNat)) ∧
    (responseStatus w = 3#4 → s.life ≠ .live ∧ i ≠ .status ∧ (∀ c, i ≠ .hsv2rgb c) ∧ ∀ c, i = .init c → s.life = .dead) ∧
    (responseStatus w = 4#4 → ∃ c, i = .init c ∧ (s.life = .live ∨ s.life = .uninit ∧ s.cfg.maxLeds < c.toNat)) ∧
    (responseStatus w = 5#4 → i = .update ∧ s.life = .live ∧ s.busy = false ∧ startAnswer s = false ∧ t.busy = false) ∧
    responseStatus w ≠ 6#4

/-! ## Reset and the invariant -/

/-- R32, R165: what reset leaves, at power-on and whenever the reset input is asserted; a held command is discarded
without a response, and what the environment does next stays (log entry 13). Absent buffers are empty lists (log entry 6). -/
def Obligations.ResetLeavesTheResetValues : Prop :=
  (∀ c : Config, (State.resetWith c).life = .uninit ∧ (State.resetWith c).count = 0 ∧
    (State.resetWith c).busy = false ∧ (State.resetWith c).disable = false ∧ (State.resetWith c).held = none ∧
    (State.resetWith c).pb = [] ∧ (State.resetWith c).tb = []) ∧
  State.reset = State.resetWith State.reset.cfg ∧
  ∀ (s : State) (rest : List Turn), s.cfg.wellFormed = true → s.turns = .reset :: rest →
    step s = .next
      { s with life := .uninit, count := 0, busy := false, disable := false, held := none, pb := [], tb := [],
               turns := rest, out := Output.silent }

/-- R33: the invariant holds at reset, for every configuration that keeps R7. -/
def Obligations.ResetMeetsTheInvariant : Prop :=
  (∀ c : Config, c.wellFormed = true → Inv (State.resetWith c)) ∧ Inv State.reset

/-- R33: every step keeps the invariant: the lifecycle rules (a) to (d), the canonical form of the memories, the values
of `TB`, and that a transfer reads a whole frame. -/
def Obligations.EveryStepKeepsTheInvariant : Prop :=
  ∀ s t : State, Inv s → step s = .next t → Inv t

/-! ## The pseudo-command WAIT_IDLE and the collaborator's contract -/

/-- R72 (c): `WAIT_IDLE` issues `STATUS` again exactly while the last response has bit 0 of `DATA` set, that is, while
`BUSY` was 1 when it was read. -/
def Obligations.WaitIdleRepeatsStatusWhileBusy : Prop :=
  (∀ r : ResponseWord, (r.getLsbD 0 = true → waitIdleAgain r = some .status) ∧
    (r.getLsbD 0 = false → waitIdleAgain r = none)) ∧
  ∀ s : State, ∃ w, exec .status s = .next (answered w s) ∧ waitIdleAgain w = if s.busy then some .status else none

/-- R25, R52 (b), R131, R172: while the collaborator keeps its contract, `BUSY` says whether a transfer is under way, and a
step that asks for a start finds the previous transfer read whole and completed. The collaborator is followed beside the
machine (log entry 19). -/
def Obligations.BusyTracksTheTransferUnderTheContract : Prop :=
  ∀ (s t : State) (c : Option Transfer), Inv s → InStep c s → honoursContract c s → step s = .next t →
    InStep (collaboratorAfter c s t) t ∧ (t.out.start ≠ none → c = none)

/-- R130, R174: if the collaborator keeps its contract, and while the command is held the host presents no second one
(R62) and no reset comes, the held command completes with its response. The waiting CORE's turns and the collaborator
followed beside the machine are the model's (log entries 9 and 19). -/
def Obligations.EveryHoldEndsUnderTheContract : Prop :=
  ∀ (s : State) (c : Option Transfer) (h : Held), Inv s → InStep c s → Contract c s → s.held = some h →
    (∀ k u rest, steps k s = .next u → u.held = some h → u.turns ≠ .reset :: rest ∧ ∀ w, u.turns ≠ .host w :: rest) →
    ∃ k t, steps k s = .next t ∧ t.held = none ∧ t.out.response ≠ none
end

