-- ==== Sys2Proof/Laws/State.lean ====
section
/-! SUPPORT. One lemma per field per update, so that no later proof unfolds a record update. -/

namespace Sys2Proof.Machine

@[simp] theorem quiet_cfg (s : State) : (quiet s).cfg = s.cfg := rfl
@[simp] theorem quiet_life (s : State) : (quiet s).life = s.life := rfl
@[simp] theorem quiet_count (s : State) : (quiet s).count = s.count := rfl
@[simp] theorem quiet_busy (s : State) : (quiet s).busy = s.busy := rfl
@[simp] theorem quiet_disable (s : State) : (quiet s).disable = s.disable := rfl
@[simp] theorem quiet_pb (s : State) : (quiet s).pb = s.pb := rfl
@[simp] theorem quiet_tb (s : State) : (quiet s).tb = s.tb := rfl
@[simp] theorem quiet_held (s : State) : (quiet s).held = s.held := rfl
@[simp] theorem quiet_turns (s : State) : (quiet s).turns = s.turns := rfl
@[simp] theorem quiet_answers (s : State) : (quiet s).answers = s.answers := rfl
@[simp] theorem quiet_draws (s : State) : (quiet s).draws = s.draws := rfl
@[simp] theorem quiet_out (s : State) : (quiet s).out = Output.silent := rfl

@[simp] theorem complete_cfg (st : Status) (d : BitVec 24) (n : Option Nat) (s : State) : (complete st d n s).cfg = s.cfg := rfl
@[simp] theorem complete_life (st : Status) (d : BitVec 24) (n : Option Nat) (s : State) : (complete st d n s).life = s.life := rfl
@[simp] theorem complete_count (st : Status) (d : BitVec 24) (n : Option Nat) (s : State) : (complete st d n s).count = s.count := rfl
@[simp] theorem complete_busy (st : Status) (d : BitVec 24) (n : Option Nat) (s : State) : (complete st d n s).busy = s.busy := rfl
@[simp] theorem complete_disable (st : Status) (d : BitVec 24) (n : Option Nat) (s : State) : (complete st d n s).disable = s.disable := rfl
@[simp] theorem complete_pb (st : Status) (d : BitVec 24) (n : Option Nat) (s : State) : (complete st d n s).pb = s.pb := rfl
@[simp] theorem complete_tb (st : Status) (d : BitVec 24) (n : Option Nat) (s : State) : (complete st d n s).tb = s.tb := rfl
@[simp] theorem complete_held (st : Status) (d : BitVec 24) (n : Option Nat) (s : State) : (complete st d n s).held = none := rfl
@[simp] theorem complete_turns (st : Status) (d : BitVec 24) (n : Option Nat) (s : State) : (complete st d n s).turns = s.turns := rfl
@[simp] theorem complete_answers (st : Status) (d : BitVec 24) (n : Option Nat) (s : State) : (complete st d n s).answers = s.answers := rfl
@[simp] theorem complete_draws (st : Status) (d : BitVec 24) (n : Option Nat) (s : State) : (complete st d n s).draws = s.draws := rfl
@[simp] theorem complete_out (st : Status) (d : BitVec 24) (n : Option Nat) (s : State) : (complete st d n s).out = { response := some (responseWord st d), start := n, readData := none } := rfl

@[simp] theorem setBusy_cfg (s : State) : (setBusy s).cfg = s.cfg := rfl
@[simp] theorem setBusy_life (s : State) : (setBusy s).life = s.life := rfl
@[simp] theorem setBusy_count (s : State) : (setBusy s).count = s.count := rfl
@[simp] theorem setBusy_busy (s : State) : (setBusy s).busy = true := rfl
@[simp] theorem setBusy_disable (s : State) : (setBusy s).disable = s.disable := rfl
@[simp] theorem setBusy_pb (s : State) : (setBusy s).pb = s.pb := rfl
@[simp] theorem setBusy_tb (s : State) : (setBusy s).tb = s.tb := rfl
@[simp] theorem setBusy_held (s : State) : (setBusy s).held = s.held := rfl
@[simp] theorem setBusy_turns (s : State) : (setBusy s).turns = s.turns := rfl
@[simp] theorem setBusy_answers (s : State) : (setBusy s).answers = s.answers := rfl
@[simp] theorem setBusy_draws (s : State) : (setBusy s).draws = s.draws := rfl
@[simp] theorem setBusy_out (s : State) : (setBusy s).out = s.out := rfl

@[simp] theorem clearBusy_cfg (s : State) : (clearBusy s).cfg = s.cfg := rfl
@[simp] theorem clearBusy_life (s : State) : (clearBusy s).life = s.life := rfl
@[simp] theorem clearBusy_count (s : State) : (clearBusy s).count = s.count := rfl
@[simp] theorem clearBusy_busy (s : State) : (clearBusy s).busy = false := rfl
@[simp] theorem clearBusy_disable (s : State) : (clearBusy s).disable = s.disable := rfl
@[simp] theorem clearBusy_pb (s : State) : (clearBusy s).pb = s.pb := rfl
@[simp] theorem clearBusy_tb (s : State) : (clearBusy s).tb = s.tb := rfl
@[simp] theorem clearBusy_held (s : State) : (clearBusy s).held = s.held := rfl
@[simp] theorem clearBusy_turns (s : State) : (clearBusy s).turns = s.turns := rfl
@[simp] theorem clearBusy_answers (s : State) : (clearBusy s).answers = s.answers := rfl
@[simp] theorem clearBusy_draws (s : State) : (clearBusy s).draws = s.draws := rfl
@[simp] theorem clearBusy_out (s : State) : (clearBusy s).out = s.out := rfl

@[simp] theorem writeDisable_cfg (f : Bool) (s : State) : (writeDisable f s).cfg = s.cfg := rfl
@[simp] theorem writeDisable_life (f : Bool) (s : State) : (writeDisable f s).life = s.life := rfl
@[simp] theorem writeDisable_count (f : Bool) (s : State) : (writeDisable f s).count = s.count := rfl
@[simp] theorem writeDisable_busy (f : Bool) (s : State) : (writeDisable f s).busy = s.busy := rfl
@[simp] theorem writeDisable_disable (f : Bool) (s : State) : (writeDisable f s).disable = f := rfl
@[simp] theorem writeDisable_pb (f : Bool) (s : State) : (writeDisable f s).pb = s.pb := rfl
@[simp] theorem writeDisable_tb (f : Bool) (s : State) : (writeDisable f s).tb = s.tb := rfl
@[simp] theorem writeDisable_held (f : Bool) (s : State) : (writeDisable f s).held = s.held := rfl
@[simp] theorem writeDisable_turns (f : Bool) (s : State) : (writeDisable f s).turns = s.turns := rfl
@[simp] theorem writeDisable_answers (f : Bool) (s : State) : (writeDisable f s).answers = s.answers := rfl
@[simp] theorem writeDisable_draws (f : Bool) (s : State) : (writeDisable f s).draws = s.draws := rfl
@[simp] theorem writeDisable_out (f : Bool) (s : State) : (writeDisable f s).out = s.out := rfl

@[simp] theorem writePixel_cfg (i : Nat) (p : Pixel) (s : State) : (writePixel i p s).cfg = s.cfg := rfl
@[simp] theorem writePixel_life (i : Nat) (p : Pixel) (s : State) : (writePixel i p s).life = s.life := rfl
@[simp] theorem writePixel_count (i : Nat) (p : Pixel) (s : State) : (writePixel i p s).count = s.count := rfl
@[simp] theorem writePixel_busy (i : Nat) (p : Pixel) (s : State) : (writePixel i p s).busy = s.busy := rfl
@[simp] theorem writePixel_disable (i : Nat) (p : Pixel) (s : State) : (writePixel i p s).disable = s.disable := rfl
@[simp] theorem writePixel_pb (i : Nat) (p : Pixel) (s : State) : (writePixel i p s).pb = s.pb.set i p := rfl
@[simp] theorem writePixel_tb (i : Nat) (p : Pixel) (s : State) : (writePixel i p s).tb = s.tb := rfl
@[simp] theorem writePixel_held (i : Nat) (p : Pixel) (s : State) : (writePixel i p s).held = s.held := rfl
@[simp] theorem writePixel_turns (i : Nat) (p : Pixel) (s : State) : (writePixel i p s).turns = s.turns := rfl
@[simp] theorem writePixel_answers (i : Nat) (p : Pixel) (s : State) : (writePixel i p s).answers = s.answers := rfl
@[simp] theorem writePixel_draws (i : Nat) (p : Pixel) (s : State) : (writePixel i p s).draws = s.draws := rfl
@[simp] theorem writePixel_out (i : Nat) (p : Pixel) (s : State) : (writePixel i p s).out = s.out := rfl

@[simp] theorem rewritePixels_cfg (f : Nat → Pixel → Pixel) (s : State) : (rewritePixels f s).cfg = s.cfg := rfl
@[simp] theorem rewritePixels_life (f : Nat → Pixel → Pixel) (s : State) : (rewritePixels f s).life = s.life := rfl
@[simp] theorem rewritePixels_count (f : Nat → Pixel → Pixel) (s : State) : (rewritePixels f s).count = s.count := rfl
@[simp] theorem rewritePixels_busy (f : Nat → Pixel → Pixel) (s : State) : (rewritePixels f s).busy = s.busy := rfl
@[simp] theorem rewritePixels_disable (f : Nat → Pixel → Pixel) (s : State) : (rewritePixels f s).disable = s.disable := rfl
@[simp] theorem rewritePixels_pb (f : Nat → Pixel → Pixel) (s : State) : (rewritePixels f s).pb = s.pb.mapIdx f := rfl
@[simp] theorem rewritePixels_tb (f : Nat → Pixel → Pixel) (s : State) : (rewritePixels f s).tb = s.tb := rfl
@[simp] theorem rewritePixels_held (f : Nat → Pixel → Pixel) (s : State) : (rewritePixels f s).held = s.held := rfl
@[simp] theorem rewritePixels_turns (f : Nat → Pixel → Pixel) (s : State) : (rewritePixels f s).turns = s.turns := rfl
@[simp] theorem rewritePixels_answers (f : Nat → Pixel → Pixel) (s : State) : (rewritePixels f s).answers = s.answers := rfl
@[simp] theorem rewritePixels_draws (f : Nat → Pixel → Pixel) (s : State) : (rewritePixels f s).draws = s.draws := rfl
@[simp] theorem rewritePixels_out (f : Nat → Pixel → Pixel) (s : State) : (rewritePixels f s).out = s.out := rfl

@[simp] theorem claimStorage_cfg (c : Idx) (s : State) : (claimStorage c s).cfg = s.cfg := rfl
@[simp] theorem claimStorage_life (c : Idx) (s : State) : (claimStorage c s).life = .live := rfl
@[simp] theorem claimStorage_count (c : Idx) (s : State) : (claimStorage c s).count = c := rfl
@[simp] theorem claimStorage_busy (c : Idx) (s : State) : (claimStorage c s).busy = s.busy := rfl
@[simp] theorem claimStorage_disable (c : Idx) (s : State) : (claimStorage c s).disable = s.disable := rfl
@[simp] theorem claimStorage_pb (c : Idx) (s : State) : (claimStorage c s).pb = List.replicate c.toNat Pixel.black := rfl
@[simp] theorem claimStorage_tb (c : Idx) (s : State) : (claimStorage c s).tb = s.tb := rfl
@[simp] theorem claimStorage_held (c : Idx) (s : State) : (claimStorage c s).held = s.held := rfl
@[simp] theorem claimStorage_turns (c : Idx) (s : State) : (claimStorage c s).turns = s.turns := rfl
@[simp] theorem claimStorage_answers (c : Idx) (s : State) : (claimStorage c s).answers = s.answers := rfl
@[simp] theorem claimStorage_draws (c : Idx) (s : State) : (claimStorage c s).draws = s.draws := rfl
@[simp] theorem claimStorage_out (c : Idx) (s : State) : (claimStorage c s).out = s.out := rfl

@[simp] theorem releaseStorage_cfg (s : State) : (releaseStorage s).cfg = s.cfg := rfl
@[simp] theorem releaseStorage_life (s : State) : (releaseStorage s).life = .dead := rfl
@[simp] theorem releaseStorage_count (s : State) : (releaseStorage s).count = 0 := rfl
@[simp] theorem releaseStorage_busy (s : State) : (releaseStorage s).busy = s.busy := rfl
@[simp] theorem releaseStorage_disable (s : State) : (releaseStorage s).disable = s.disable := rfl
@[simp] theorem releaseStorage_pb (s : State) : (releaseStorage s).pb = [] := rfl
@[simp] theorem releaseStorage_tb (s : State) : (releaseStorage s).tb = [] := rfl
@[simp] theorem releaseStorage_held (s : State) : (releaseStorage s).held = s.held := rfl
@[simp] theorem releaseStorage_turns (s : State) : (releaseStorage s).turns = s.turns := rfl
@[simp] theorem releaseStorage_answers (s : State) : (releaseStorage s).answers = s.answers := rfl
@[simp] theorem releaseStorage_draws (s : State) : (releaseStorage s).draws = s.draws := rfl
@[simp] theorem releaseStorage_out (s : State) : (releaseStorage s).out = s.out := rfl

@[simp] theorem writeTb_cfg (l : List Nat) (s : State) : (writeTb l s).cfg = s.cfg := rfl
@[simp] theorem writeTb_life (l : List Nat) (s : State) : (writeTb l s).life = s.life := rfl
@[simp] theorem writeTb_count (l : List Nat) (s : State) : (writeTb l s).count = s.count := rfl
@[simp] theorem writeTb_busy (l : List Nat) (s : State) : (writeTb l s).busy = s.busy := rfl
@[simp] theorem writeTb_disable (l : List Nat) (s : State) : (writeTb l s).disable = s.disable := rfl
@[simp] theorem writeTb_pb (l : List Nat) (s : State) : (writeTb l s).pb = s.pb := rfl
@[simp] theorem writeTb_tb (l : List Nat) (s : State) : (writeTb l s).tb = l := rfl
@[simp] theorem writeTb_held (l : List Nat) (s : State) : (writeTb l s).held = s.held := rfl
@[simp] theorem writeTb_turns (l : List Nat) (s : State) : (writeTb l s).turns = s.turns := rfl
@[simp] theorem writeTb_answers (l : List Nat) (s : State) : (writeTb l s).answers = s.answers := rfl
@[simp] theorem writeTb_draws (l : List Nat) (s : State) : (writeTb l s).draws = s.draws := rfl
@[simp] theorem writeTb_out (l : List Nat) (s : State) : (writeTb l s).out = s.out := rfl

/-! `takeAnswer` writes `answers` or `draws` and nothing else. -/

@[simp] theorem takeAnswer_cfg (s : State) : (takeAnswer s).cfg = s.cfg := by unfold takeAnswer; split <;> rfl
@[simp] theorem takeAnswer_life (s : State) : (takeAnswer s).life = s.life := by unfold takeAnswer; split <;> rfl
@[simp] theorem takeAnswer_count (s : State) : (takeAnswer s).count = s.count := by unfold takeAnswer; split <;> rfl
@[simp] theorem takeAnswer_busy (s : State) : (takeAnswer s).busy = s.busy := by unfold takeAnswer; split <;> rfl
@[simp] theorem takeAnswer_disable (s : State) : (takeAnswer s).disable = s.disable := by unfold takeAnswer; split <;> rfl
@[simp] theorem takeAnswer_pb (s : State) : (takeAnswer s).pb = s.pb := by unfold takeAnswer; split <;> rfl
@[simp] theorem takeAnswer_tb (s : State) : (takeAnswer s).tb = s.tb := by unfold takeAnswer; split <;> rfl
@[simp] theorem takeAnswer_held (s : State) : (takeAnswer s).held = s.held := by unfold takeAnswer; split <;> rfl
@[simp] theorem takeAnswer_turns (s : State) : (takeAnswer s).turns = s.turns := by unfold takeAnswer; split <;> rfl
@[simp] theorem takeAnswer_out (s : State) : (takeAnswer s).out = s.out := by unfold takeAnswer; split <;> rfl

/-! `readTb` writes `draws` and `out` and nothing else. -/

@[simp] theorem readTb_cfg (j : Nat) (s : State) : (readTb j s).cfg = s.cfg := by unfold readTb; split <;> rfl
@[simp] theorem readTb_life (j : Nat) (s : State) : (readTb j s).life = s.life := by unfold readTb; split <;> rfl
@[simp] theorem readTb_count (j : Nat) (s : State) : (readTb j s).count = s.count := by unfold readTb; split <;> rfl
@[simp] theorem readTb_busy (j : Nat) (s : State) : (readTb j s).busy = s.busy := by unfold readTb; split <;> rfl
@[simp] theorem readTb_disable (j : Nat) (s : State) : (readTb j s).disable = s.disable := by unfold readTb; split <;> rfl
@[simp] theorem readTb_pb (j : Nat) (s : State) : (readTb j s).pb = s.pb := by unfold readTb; split <;> rfl
@[simp] theorem readTb_tb (j : Nat) (s : State) : (readTb j s).tb = s.tb := by unfold readTb; split <;> rfl
@[simp] theorem readTb_held (j : Nat) (s : State) : (readTb j s).held = s.held := by unfold readTb; split <;> rfl
@[simp] theorem readTb_turns (j : Nat) (s : State) : (readTb j s).turns = s.turns := by unfold readTb; split <;> rfl
@[simp] theorem readTb_answers (j : Nat) (s : State) : (readTb j s).answers = s.answers := by unfold readTb; split <;> rfl

@[simp] theorem resetCore_cfg (s : State) : (resetCore s).cfg = s.cfg := rfl
@[simp] theorem resetCore_life (s : State) : (resetCore s).life = .uninit := rfl
@[simp] theorem resetCore_count (s : State) : (resetCore s).count = 0 := rfl
@[simp] theorem resetCore_busy (s : State) : (resetCore s).busy = false := rfl
@[simp] theorem resetCore_disable (s : State) : (resetCore s).disable = false := rfl
@[simp] theorem resetCore_pb (s : State) : (resetCore s).pb = [] := rfl
@[simp] theorem resetCore_tb (s : State) : (resetCore s).tb = [] := rfl
@[simp] theorem resetCore_held (s : State) : (resetCore s).held = none := rfl
@[simp] theorem resetCore_turns (s : State) : (resetCore s).turns = s.turns := rfl
@[simp] theorem resetCore_answers (s : State) : (resetCore s).answers = s.answers := rfl
@[simp] theorem resetCore_draws (s : State) : (resetCore s).draws = s.draws := rfl
@[simp] theorem resetCore_out (s : State) : (resetCore s).out = Output.silent := rfl

/-! The named pixel writes are instances of `rewritePixels`. -/

@[simp] theorem fillPixels_eq (p : Pixel) (s : State) : fillPixels p s = rewritePixels (fun _ _ => p) s := rfl
@[simp] theorem fillSpan_eq (low high : Nat) (p : Pixel) (s : State) :
    fillSpan low high p s = rewritePixels (fun i old => if low ≤ i ∧ i ≤ high then p else old) s := rfl
@[simp] theorem shiftLeft_eq (n : Nat) (s : State) : shiftLeft n s =
    rewritePixels (fun i _ => if i + n < s.count.toNat then pixelAt s.pb (i + n) else Pixel.black) s := rfl
@[simp] theorem shiftRight_eq (n : Nat) (s : State) : shiftRight n s =
    rewritePixels (fun i _ => if n ≤ i then pixelAt s.pb (i - n) else Pixel.black) s := rfl
@[simp] theorem rotateLeft_eq (n : Nat) (s : State) : rotateLeft n s =
    rewritePixels (fun i _ => pixelAt s.pb ((i + n) % s.count.toNat)) s := rfl
@[simp] theorem rotateRight_eq (n : Nat) (s : State) : rotateRight n s =
    rewritePixels (fun i _ => pixelAt s.pb ((i + s.count.toNat - n) % s.count.toNat)) s := rfl
@[simp] theorem answered_eq_complete (st : Status) (d : BitVec 24) (s : State) :
    answered (responseWord st d) s = complete st d none s := rfl

/-! The three fields of a response word (R63). -/

theorem responseWord_toNat (st : Status) (d : BitVec 24) :
    (responseWord st d).toNat = (statusCode st).toNat * 2 ^ 28 + d.toNat := by
  have := d.isLt
  simp only [responseWord, BitVec.toNat_append, Nat.shiftLeft_eq]
  rw [← Nat.shiftLeft_eq, ← Nat.shiftLeft_add_eq_or_of_lt (by omega), ← Nat.shiftLeft_eq,
    ← Nat.shiftLeft_add_eq_or_of_lt (by simp)]
  simp [Nat.shiftLeft_eq]
  omega

@[simp] theorem responseStatus_responseWord (st : Status) (d : BitVec 24) :
    responseStatus (responseWord st d) = statusCode st := by
  apply BitVec.eq_of_toNat_eq
  have := d.isLt
  have := (statusCode st).isLt
  simp only [responseStatus, BitVec.extractLsb'_toNat, responseWord_toNat, Nat.shiftRight_eq_div_pow]
  omega

@[simp] theorem responseWord_reserved (st : Status) (d : BitVec 24) :
    (responseWord st d).extractLsb' 24 4 = 0#4 := by
  apply BitVec.eq_of_toNat_eq
  have := d.isLt
  simp only [BitVec.extractLsb'_toNat, responseWord_toNat, Nat.shiftRight_eq_div_pow, BitVec.toNat_ofNat]
  omega

@[simp] theorem responseWord_data (st : Status) (d : BitVec 24) :
    (responseWord st d).extractLsb' 0 24 = d := by
  apply BitVec.eq_of_toNat_eq
  have := d.isLt
  simp only [BitVec.extractLsb'_toNat, responseWord_toNat, Nat.shiftRight_eq_div_pow]
  omega

/-- A pixel that exists is what `pixelAt` reads. -/
theorem getElem?_eq_pixelAt (pb : List Pixel) (k : Nat) (h : k < pb.length) : pb[k]? = some (pixelAt pb k) := by
  simp [pixelAt, h]

/-- Reading one pixel after every pixel was rewritten. -/
theorem pixelAt_mapIdx (pb : List Pixel) (f : Nat → Pixel → Pixel) (k : Nat) (h : k < pb.length) :
    pixelAt (pb.mapIdx f) k = f k (pixelAt pb k) := by
  simp [pixelAt, h]

/-- `TB_LEN` looks at `COUNT` and `RESET_SLOTS` only (R43). -/
theorem tbLen_congr {s t : State} (hc : t.count = s.count) (hcfg : t.cfg = s.cfg) : tbLen t = tbLen s := by
  simp [tbLen, hc, hcfg]

end Sys2Proof.Machine
end

