-- ==== Sys2Proof/Laws/Effects.lean ====
section
/-! SUPPORT. Everything a command, and everything a step, can do: one inversion lemma each. Invariants follow from these
without unfolding `exec` or `step` again. -/

namespace Sys2Proof.Machine

@[simp] theorem whenLive_of_live {s : State} (h : s.life = .live) (b : Result) : whenLive s b = b := if_pos h

@[simp] theorem whenLive_of_not_live {s : State} (h : s.life ≠ .live) (b : Result) :
    whenLive s b = fail .notInitialized s := if_neg h

/-- What `exec i s` can lead to. -/
inductive Effect (s : State) (i : Instr) : State → Prop
  /-- A response and nothing else: every failure, `STATUS`, `HSV2RGB`. -/
  | report (st : Status) (data : BitVec 24) (hi : i ≠ .notify)
      (hst : st ≠ .ok → data = 0) (hcode : st ≠ .transferStartFailed ∧ st ≠ .illegalCommand)
      (hok : st = .ok → i = .status ∨ ∃ c, i = .hsv2rgb c)
      (hheld : i = .update ∨ i = .teardown → s.life ≠ .live) : Effect s i (complete st data none s)
  /-- The pixels of a live Instance are rewritten, none added and none lost. -/
  | pixels (pb : List Pixel) (hi : isPixelInstr i = true) (hl : s.life = .live) (hlen : pb.length = s.pb.length) :
      Effect s i (complete .ok 0 none { s with pb := pb })
  | claimed (c : Idx) (hi : i = .init c) (hl : s.life = .uninit) (hpos : 1 ≤ c.toNat) (hle : c.toNat ≤ s.cfg.maxLeds) :
      Effect s i (complete .ok 0 none (claimStorage c s))
  | released (hi : i = .teardown) (hl : s.life = .live) (hb : s.busy = false) :
      Effect s i (complete .ok 0 none (releaseStorage s))
  | disabled (f : Bool) (hi : i = .setDisable f) (hl : s.life = .live) :
      Effect s i (complete .ok 0 none (writeDisable f s))
  | heldBack (h : Held) (hi : i = h.instr) (hl : s.life = .live) (hb : s.busy = true) :
      Effect s i (quiet { s with held := some h })
  | started (hi : i = .update) (hl : s.life = .live) (hb : s.busy = false) (ha : startAnswer s = true) :
      Effect s i
        (complete .ok 0 (some (tbLen s)) (takeAnswer (setBusy (writeTb (encodeFrame s.cfg s.pb s.disable) s))))
  | rejected (hi : i = .update) (hl : s.life = .live) (hb : s.busy = false) (ha : startAnswer s = false) :
      Effect s i
        (complete .transferStartFailed 0 (some (tbLen s))
          (clearBusy (takeAnswer (setBusy (writeTb (encodeFrame s.cfg s.pb s.disable) s)))))
  | notified (hi : i = .notify) : Effect s i (quiet (clearBusy s))

theorem fail_effect {s : State} {i : Instr} (e : Status) (hi : i ≠ .notify) (he : e ≠ .ok)
    (hc : e ≠ .transferStartFailed ∧ e ≠ .illegalCommand) (hh : i = .update ∨ i = .teardown → s.life ≠ .live) :
    ∃ t, fail e s = .next t ∧ Effect s i t :=
  ⟨_, rfl, .report e 0 hi (fun _ => rfl) hc (fun h => absurd h he) hh⟩

theorem rewrite_effect {s : State} {i : Instr} (f : Nat → Pixel → Pixel) (hi : isPixelInstr i = true)
    (hl : s.life = .live) : ∃ t, succeed 0 (rewritePixels f s) = .next t ∧ Effect s i t :=
  ⟨_, rfl, .pixels _ hi hl (List.length_mapIdx ..)⟩

theorem whenLive_effect {s : State} {i : Instr} {b : Result} (hi : i ≠ .notify)
    (hb : s.life = .live → ∃ t, b = .next t ∧ Effect s i t) : ∃ t, whenLive s b = .next t ∧ Effect s i t := by
  by_cases hl : s.life = .live
  · simpa [hl] using hb hl
  · simpa [hl] using fail_effect (s := s) .notInitialized hi (by simp) (by simp) (fun _ => hl)

theorem setPixel_effect {s : State} {i : Instr} (x : Idx) (p : Pixel) (hi : isPixelInstr i = true) (hn : i ≠ .notify) :
    ∃ t, setPixel x p s = .next t ∧ Effect s i t := by
  refine whenLive_effect hn fun hl => ?_
  split
  · exact ⟨_, rfl, .pixels _ hi hl (by simp)⟩
  · exact fail_effect _ hn (by simp) (by simp) (by rintro (rfl | rfl) <;> cases hi)

theorem setPixels_effect {s : State} {i : Instr} (p : Pixel) (hi : isPixelInstr i = true) (hn : i ≠ .notify) :
    ∃ t, setPixels p s = .next t ∧ Effect s i t :=
  whenLive_effect hn fun hl => rewrite_effect _ hi hl

theorem proceedUpdate_effect {s : State} (hl : s.life = .live) (hb : s.busy = false) :
    ∃ t, proceedUpdate s = .next t ∧ Effect s .update t := by
  cases ha : startAnswer s
  · exact ⟨_, if_neg (by simp [startAnswer] at ha ⊢; simp [ha]), .rejected rfl hl hb ha⟩
  · exact ⟨_, if_pos (by simpa [startAnswer] using ha), .started rfl hl hb ha⟩

/-- Every instruction answers with a next state, and that state is one of the effects. -/
theorem exec_effect (i : Instr) (s : State) : ∃ t, exec i s = .next t ∧ Effect s i t := by
  cases i with
  | init c =>
    show ∃ t, execInit c s = .next t ∧ _
    unfold execInit
    split
    · exact fail_effect _ (by simp) (by simp) (by simp) (by simp)
    · exact fail_effect _ (by simp) (by simp) (by simp) (by simp)
    · rename_i hl
      split
      · exact fail_effect _ (by simp) (by simp) (by simp) (by simp)
      · split
        · exact fail_effect _ (by simp) (by simp) (by simp) (by simp)
        · exact ⟨_, rfl, .claimed c rfl hl (by omega) (by omega)⟩
  | teardown =>
    refine whenLive_effect (by simp) fun hl => ?_
    split
    · exact ⟨_, rfl, .heldBack .teardown rfl hl (by assumption)⟩
    · exact ⟨_, rfl, .released rfl hl (by rename_i hb; simpa using hb)⟩
  | setDisable f => exact whenLive_effect (by simp) fun hl => ⟨_, rfl, .disabled f rfl hl⟩
  | status => exact ⟨_, rfl, .report .ok _ (by simp) (by simp) (by simp) (by simp) (by simp)⟩
  | setOne x p => exact setPixel_effect x p rfl (by simp)
  | setOneHsv x c => exact setPixel_effect x _ rfl (by simp)
  | setAll p => exact setPixels_effect p rfl (by simp)
  | setAllHsv c => exact setPixels_effect _ rfl (by simp)
  | setSpan low high p =>
    refine whenLive_effect (by simp) fun hl => ?_
    split
    · split
      · exact fail_effect _ (by simp) (by simp) (by simp) (by simp)
      · exact rewrite_effect _ rfl hl
    · exact fail_effect _ (by simp) (by simp) (by simp) (by simp)
  | clear => exact setPixels_effect _ rfl (by simp)
  | shl n => exact whenLive_effect (by simp) fun hl => rewrite_effect _ rfl hl
  | shr n => exact whenLive_effect (by simp) fun hl => rewrite_effect _ rfl hl
  | rol n =>
    refine whenLive_effect (by simp) fun hl => ?_
    split
    · exact rewrite_effect _ rfl hl
    · exact fail_effect _ (by simp) (by simp) (by simp) (by simp)
  | ror n =>
    refine whenLive_effect (by simp) fun hl => ?_
    split
    · exact rewrite_effect _ rfl hl
    · exact fail_effect _ (by simp) (by simp) (by simp) (by simp)
  | hsv2rgb c => exact ⟨_, rfl, .report .ok _ (by simp) (by simp) (by simp) (by simp) (by simp)⟩
  | update =>
    refine whenLive_effect (by simp) fun hl => ?_
    split
    · exact ⟨_, rfl, .heldBack .update rfl hl (by assumption)⟩
    · exact proceedUpdate_effect hl (by rename_i hb; simpa using hb)
  | notify => exact ⟨_, rfl, .notified rfl⟩

/-- The state a turn is run in: `s` with the turn taken off the list. -/
def afterFetch (s : State) : State := { s with turns := s.turns.tail }

/-- What a step can lead to. -/
inductive StepEffect (s : State) : State → Prop
  /-- A command word or the notify event is decoded and run. -/
  | word (p : PortWord) (i : Instr) (t : State)
      (hp : (∃ w rest, p = .command w ∧ s.turns = .host w :: rest ∧ s.held = none) ∨
        ∃ rest, p = .notify 1#1 ∧ s.turns = .notify 1#1 :: rest)
      (hd : decode p = .ok i) (he : Effect (afterFetch s) i t) : StepEffect s t
  /-- The CORE's turn: a held command is tried. -/
  | retry (h : Held) (t : State) (hh : s.held = some h) (ht : s.turns = [] ∨ ∃ rest, s.turns = .core :: rest)
      (he : Effect (afterFetch s) h.instr t) : StepEffect s t
  /-- A reserved opcode. -/
  | illegal (w : CommandWord) (rest : List Turn) (e : Reject) (ht : s.turns = .host w :: rest) (hh : s.held = none)
      (hd : decode (.command w) = .error e) : StepEffect s (complete .illegalCommand 0 none (afterFetch s))
  /-- Nothing happens: the CORE waits, or the notify input is at 0. -/
  | idle (ht : (s.held = none ∧ (s.turns = [] ∨ ∃ rest, s.turns = .core :: rest)) ∨
      ∃ level rest, s.turns = .notify level :: rest ∧ level = 0#1) : StepEffect s (quiet (afterFetch s))
  | read (j : Nat) (rest : List Turn) (ht : s.turns = .tbRead j :: rest) : StepEffect s (readTb j (afterFetch s))
  | reset (rest : List Turn) (ht : s.turns = .reset :: rest) : StepEffect s (resetCore (afterFetch s))

theorem coreTurn_effect {s t : State} (ht : s.turns = [] ∨ ∃ rest, s.turns = .core :: rest)
    (h : coreTurn (afterFetch s) = .next t) : StepEffect s t := by
  unfold coreTurn at h
  split at h
  · rename_i c hc
    obtain ⟨u, hu, he⟩ := exec_effect c.instr (afterFetch s)
    rw [hu] at h
    cases h
    exact .retry c _ hc ht he
  · rename_i hc
    cases h
    exact .idle (.inl ⟨hc, ht⟩)

/-- If a step answers with a next state, the configuration keeps R7 and the state is one of the step effects. -/
theorem step_effect {s t : State} (h : step s = .next t) : s.cfg.wellFormed = true ∧ StepEffect s t := by
  unfold step at h
  split at h
  case isFalse => cases h
  case isTrue hwf =>
  refine ⟨hwf, ?_⟩
  unfold nextTurn at h
  split at h
  case h_2 ht =>
    have : afterFetch s = s := by cases s; simp_all [afterFetch]
    exact coreTurn_effect (.inl ht) (by rw [this]; exact h)
  case h_1 turn rest ht =>
    have hs : ({ s with turns := rest } : State) = afterFetch s := by simp [afterFetch, ht]
    rw [hs] at h
    cases turn with
    | core => exact coreTurn_effect (.inr ⟨rest, ht⟩) h
    | tbRead j => cases h; exact .read j rest ht
    | reset => cases h; exact .reset rest ht
    | notify level =>
      simp only [runTurn, notifyTurn] at h
      by_cases hl : level = 1#1
      · subst hl
        obtain ⟨u, hu, he⟩ := exec_effect .notify (afterFetch s)
        simp only [decode, decodeNotify, if_true] at h
        rw [hu] at h
        cases h
        exact .word (.notify 1#1) .notify _ (.inr ⟨rest, rfl, ht⟩) rfl he
      · simp only [decode, decodeNotify, hl, if_false] at h
        cases h
        exact .idle (.inr ⟨level, rest, ht, by bv_omega⟩)
    | host w =>
      simp only [runTurn, hostTurn] at h
      split at h
      · cases h
      · rename_i hh
        have hh' : s.held = none := by
          have : (afterFetch s).held = s.held := rfl
          rw [this] at hh
          cases hx : s.held <;> simp_all
        split at h
        · rename_i i hd
          obtain ⟨u, hu, he⟩ := exec_effect i (afterFetch s)
          rw [hu] at h
          cases h
          exact .word (.command w) i _ (.inl ⟨w, rest, rfl, ht, hh'⟩) hd he
        · rename_i e hd
          cases h
          exact .illegal w rest e ht hh' hd

theorem effect_turns {s t : State} {i : Instr} (h : Effect s i t) : t.turns = s.turns := by cases h <;> simp

/-- A step takes one turn off the list. -/
theorem step_turns {s t : State} (h : step s = .next t) : t.turns = s.turns.tail := by
  cases (step_effect h).2 with
  | word _ _ _ _ _ he => exact effect_turns he
  | retry _ _ _ _ he => exact effect_turns he
  | read => simp [afterFetch]
  | illegal | idle | reset => rfl

theorem steps_turns {k : Nat} {s t : State} (h : steps k s = .next t) : t.turns = s.turns.drop k := by
  induction k generalizing s with
  | zero => cases h; rfl
  | succ k ih =>
    simp only [steps] at h
    split at h
    · rename_i u hu
      rw [ih h, step_turns hu, List.drop_tail]
    · cases h
    · cases h

end Sys2Proof.Machine
end

