-- ==== Sys2Proof/Laws/Contract.lean ====
section
/-! SUPPORT. The collaborator's contract over a run, taken apart one step at a time. -/

namespace Sys2Proof.Machine

@[simp] theorem runWith_zero (s : State) (c : Option Transfer) : runWith 0 s c = some (s, c) := rfl

theorem runWith_succ {s t : State} (h : step s = .next t) (k : Nat) (c : Option Transfer) :
    runWith (k + 1) s c = runWith k t (collaboratorAfter c s t) := by
  simp only [runWith, h]

@[simp] theorem readTb_start (j : Nat) (s : State) : (readTb j s).out.start = none := by unfold readTb; split <;> rfl

/-- A contract kept from `s` on is kept from the next state on. -/
theorem Contract.tail {c : Option Transfer} {s t : State} (hc : Contract c s) (h : step s = .next t) :
    Contract (collaboratorAfter c s t) t where
  every_turn k u d hk := hc.every_turn (k + 1) u d (by rwa [runWith_succ h])
  notify_comes k u x hk := hc.notify_comes (k + 1) u x (by rwa [runWith_succ h])

/-- A contract kept at the next step and from the next state on is kept. -/
theorem Contract.cons {c : Option Transfer} {s t : State} (h : step s = .next t) (h0 : honoursContract c s)
    (hc : Contract (collaboratorAfter c s t) t) : Contract c s where
  every_turn
    | 0, _, _, hk => by cases hk; exact h0
    | k + 1, u, d, hk => hc.every_turn k u d (by rwa [runWith_succ h] at hk)
  notify_comes
    | 0, _, x, hk => by
      cases hk
      cases hx : collaboratorAfter (some x) s t with
      | none => exact ⟨1, t, by rw [runWith_succ h, hx, runWith_zero]⟩
      | some y =>
        obtain ⟨j, u, hj⟩ := hc.notify_comes 0 t y (by rw [hx, runWith_zero])
        exact ⟨j + 1, u, by rwa [runWith_succ h, hx]⟩
    | k + 1, u, x, hk => hc.notify_comes k u x (by rwa [runWith_succ h] at hk)

/-- With nothing to come, no command held and no transfer under way the CORE waits for ever. -/
theorem runWith_idle (k : Nat) {s : State} (hwf : s.cfg.wellFormed = true) (ht : s.turns = []) (hh : s.held = none) :
    ∃ t, runWith k s none = some (t, none) ∧ t.turns = [] := by
  induction k generalizing s with
  | zero => exact ⟨s, rfl, ht⟩
  | succ k ih =>
    have h : step s = .next (quiet s) := by simp [step, hwf, nextTurn, ht, coreTurn, hh]
    have hn : collaboratorAfter none s (quiet s) = none := by simp [collaboratorAfter, ht, Output.silent]
    rw [runWith_succ h, hn]
    exact ih hwf ht hh

theorem Contract.idle {s : State} (hwf : s.cfg.wellFormed = true) (ht : s.turns = []) (hh : s.held = none) :
    Contract none s where
  every_turn k u d hk := by
    obtain ⟨t, hr, hu⟩ := runWith_idle k hwf ht hh
    rw [hr] at hk
    cases hk
    simp [honoursContract, hu]
  notify_comes k u x hk := by
    obtain ⟨t, hr, _⟩ := runWith_idle k hwf ht hh
    rw [hr] at hk
    cases hk

end Sys2Proof.Machine
end

