-- ==== Sys2Proof/Laws/Decode.lean ====
section
/-! SUPPORT. The fields of an assembled command word are the fields it was assembled from. -/

namespace Sys2Proof

/-- One bit of an assembled word: the bit of the field it lies in. -/
theorem getLsbD_commandWord (op : BitVec 8) (a b : BitVec 16) (c2 c1 c0 : BitVec 8) (i : Nat) :
    (commandWord op a b c2 c1 c0).getLsbD i =
      if i < 8 then c0.getLsbD i else if i < 16 then c1.getLsbD (i - 8) else if i < 24 then c2.getLsbD (i - 16)
      else if i < 40 then b.getLsbD (i - 24) else if i < 56 then a.getLsbD (i - 40) else op.getLsbD (i - 56) := by
  simp only [commandWord, BitVec.getLsbD_append]
  repeat' split
  all_goals first
    | rfl
    | omega

variable (op : BitVec 8) (a b : BitVec 16) (c2 c1 c0 : BitVec 8)

@[simp] theorem fieldOp_commandWord : fieldOp (commandWord op a b c2 c1 c0) = op := by
  apply BitVec.eq_of_getLsbD_eq
  intro i hi
  simp only [fieldOp, BitVec.getLsbD_extractLsb', getLsbD_commandWord, hi, decide_true, Bool.true_and]
  repeat' split
  all_goals first
    | omega
    | (congr 1; omega)

@[simp] theorem fieldA_commandWord : fieldA (commandWord op a b c2 c1 c0) = a := by
  apply BitVec.eq_of_getLsbD_eq
  intro i hi
  simp only [fieldA, BitVec.getLsbD_extractLsb', getLsbD_commandWord, hi, decide_true, Bool.true_and]
  repeat' split
  all_goals first
    | omega
    | (congr 1; omega)

@[simp] theorem fieldB_commandWord : fieldB (commandWord op a b c2 c1 c0) = b := by
  apply BitVec.eq_of_getLsbD_eq
  intro i hi
  simp only [fieldB, BitVec.getLsbD_extractLsb', getLsbD_commandWord, hi, decide_true, Bool.true_and]
  repeat' split
  all_goals first
    | omega
    | (congr 1; omega)

@[simp] theorem fieldC2_commandWord : fieldC2 (commandWord op a b c2 c1 c0) = c2 := by
  apply BitVec.eq_of_getLsbD_eq
  intro i hi
  simp only [fieldC2, BitVec.getLsbD_extractLsb', getLsbD_commandWord, hi, decide_true, Bool.true_and]
  repeat' split
  all_goals first
    | omega
    | (congr 1; omega)

@[simp] theorem fieldC1_commandWord : fieldC1 (commandWord op a b c2 c1 c0) = c1 := by
  apply BitVec.eq_of_getLsbD_eq
  intro i hi
  simp only [fieldC1, BitVec.getLsbD_extractLsb', getLsbD_commandWord, hi, decide_true, Bool.true_and]
  repeat' split
  all_goals first
    | omega
    | (congr 1; omega)

@[simp] theorem fieldC0_commandWord : fieldC0 (commandWord op a b c2 c1 c0) = c0 := by
  apply BitVec.eq_of_getLsbD_eq
  intro i hi
  simp only [fieldC0, BitVec.getLsbD_extractLsb', getLsbD_commandWord, hi, decide_true, Bool.true_and]
  repeat' split
  all_goals first
    | omega
    | (congr 1; omega)

@[simp] theorem flagOperand_commandWord : flagOperand (commandWord op a b c2 c1 c0) = c2.getLsbD 0 := by
  simp only [flagOperand, getLsbD_commandWord]; rfl

/-- A command word is its six fields. -/
theorem commandWord_fields (w : CommandWord) :
    commandWord (fieldOp w) (fieldA w) (fieldB w) (fieldC2 w) (fieldC1 w) (fieldC0 w) = w := by
  apply BitVec.eq_of_getLsbD_eq
  intro i hi
  simp only [commandWord, fieldOp, fieldA, fieldB, fieldC2, fieldC1, fieldC0, BitVec.getLsbD_append,
    BitVec.getLsbD_extractLsb']
  split
  · simp [show i < 8 by omega]
  split
  · simp [show i - 8 < 8 by omega, show 8 + (i - 8) = i by omega]
  split
  · simp [show i - 8 - 8 < 8 by omega, show 16 + (i - 8 - 8) = i by omega]
  split
  · simp [show i - 8 - 8 - 8 < 16 by omega, show 24 + (i - 8 - 8 - 8) = i by omega]
  split
  · simp [show i - 8 - 8 - 8 - 16 < 16 by omega, show 40 + (i - 8 - 8 - 8 - 16) = i by omega]
  · simp [show i - 8 - 8 - 8 - 16 - 16 < 8 by omega, show 56 + (i - 8 - 8 - 8 - 16 - 16) = i by omega]

end Sys2Proof
end

