-- ==== Sys2Proof/Laws/Memory.lean ====
section
/-! SUPPORT. Every memory operation keeps the canonical form of the memories, and the reset state has it. -/

namespace Sys2Proof.Machine

/-- `Memory.wf` as a proposition. -/
theorem memory_wf_iff (s : State) : Memory.wf s = true ↔
    s.pb.length = s.count.toNat ∧ (s.tb = [] ∨ s.life = .live ∧ s.tb.length = tbLen s) ∧
      ∀ v ∈ s.tb, v < 2 ^ s.cfg.tcW := by
  simp [Memory.wf, and_assoc]

/-- The canonical form looks at the memories, `COUNT`, `LIFE` and the configuration only. -/
theorem memory_wf_congr {s t : State} (hpb : t.pb.length = s.pb.length) (htb : t.tb = s.tb) (hc : t.count = s.count)
    (hl : t.life = s.life) (hcfg : t.cfg = s.cfg) (h : Memory.wf s = true) : Memory.wf t = true := by
  rw [memory_wf_iff] at *
  simpa [hpb, htb, hc, hl, hcfg, tbLen_congr hc hcfg] using h

theorem resetWith_memory_wf (c : Config) : Memory.wf (State.resetWith c) = true := by
  simp [memory_wf_iff, State.resetWith]

theorem reset_memory_wf : Memory.wf State.reset = true := resetWith_memory_wf _

theorem resetCore_memory_wf (s : State) : Memory.wf (resetCore s) = true := by simp [memory_wf_iff]

theorem writePixel_memory_wf (i : Nat) (p : Pixel) {s : State} (h : Memory.wf s = true) :
    Memory.wf (writePixel i p s) = true :=
  memory_wf_congr (s := s) (by simp) rfl rfl rfl rfl h

theorem rewritePixels_memory_wf (f : Nat → Pixel → Pixel) {s : State} (h : Memory.wf s = true) :
    Memory.wf (rewritePixels f s) = true :=
  memory_wf_congr (s := s) (by simp) rfl rfl rfl rfl h

theorem claimStorage_memory_wf (c : Idx) {s : State} (hl : s.life = .uninit) (h : Memory.wf s = true) :
    Memory.wf (claimStorage c s) = true := by
  rw [memory_wf_iff] at *
  have htb : s.tb = [] := by simpa [hl] using h.2.1
  simp [htb]

theorem releaseStorage_memory_wf (s : State) : Memory.wf (releaseStorage s) = true := by simp [memory_wf_iff]

theorem readTb_memory_wf (j : Nat) {s : State} (h : Memory.wf s = true) : Memory.wf (readTb j s) = true :=
  memory_wf_congr (by simp) (by simp) (by simp) (by simp) (by simp) h

theorem encodePixel_length (cfg : Config) (p : Pixel) : (encodePixel cfg p).length = 24 := by simp [encodePixel]

theorem encodeFrame_length (cfg : Config) (pb : List Pixel) (dis : Bool) :
    (encodeFrame cfg pb dis).length = 24 * pb.length + cfg.resetSlots := by
  cases dis
  · have : (pb.flatMap (encodePixel cfg)).length = 24 * pb.length := by
      induction pb with
      | nil => rfl
      | cons p ps ih => simp [encodePixel_length, ih]; omega
    simp [encodeFrame, resetGap, this]
  · simp [encodeFrame]

theorem encodeFrame_values (cfg : Config) (pb : List Pixel) (dis : Bool) :
    ∀ v ∈ encodeFrame cfg pb dis, v = 0 ∨ v = cfg.t0Count ∨ v = cfg.t1Count := by
  intro v hv
  cases dis
  · simp only [encodeFrame, Bool.false_eq_true, if_false, List.mem_append, List.mem_flatMap, encodePixel, List.mem_map,
      resetGap, List.mem_replicate] at hv
    rcases hv with ⟨p, _, k, _, rfl⟩ | ⟨_, rfl⟩
    · unfold symbol; split <;> simp
    · exact .inl rfl
  · simp only [encodeFrame, if_true, List.mem_replicate] at hv
    exact .inl hv.2

/-- What R7 says of a configuration. -/
theorem config_wf_iff (c : Config) : c.wellFormed = true ↔
    1 ≤ c.maxLeds ∧ c.maxLeds ≤ 65535 ∧ 0 < c.t0Count ∧ c.t0Count < c.t1Count ∧ c.t1Count ≤ c.periodCount ∧
      c.periodCount < 2 ^ c.tcW ∧ 1 ≤ c.tcW := by
  simp [Config.wellFormed, and_assoc]

/-- An encoded frame fits `TC_W` bits (R7, R42). -/
theorem encodeFrame_bound {cfg : Config} (hc : cfg.wellFormed = true) (pb : List Pixel) (dis : Bool) :
    ∀ v ∈ encodeFrame cfg pb dis, v < 2 ^ cfg.tcW := by
  intro v hv
  rw [config_wf_iff] at hc
  have := encodeFrame_values cfg pb dis v hv
  omega

theorem writeTb_encode_memory_wf {s : State} (hc : s.cfg.wellFormed = true) (hl : s.life = .live)
    (h : Memory.wf s = true) : Memory.wf (writeTb (encodeFrame s.cfg s.pb s.disable) s) = true := by
  rw [memory_wf_iff] at *
  refine ⟨h.1, .inr ⟨hl, ?_⟩, encodeFrame_bound hc s.pb s.disable⟩
  simp [encodeFrame_length, tbLen, h.1]

end Sys2Proof.Machine
end

