-- ==== Sys2Proof/Laws/PerInstr.lean ====
section
/-! SUPPORT. The family TableRow: the encoder's word for an instruction is one that its row of spec/opcode_table.json
matches (`word & mask = match`, R65), and no other row does. -/

namespace Sys2Proof.Laws.TableRow

/-- The `match` column of the row, for the 64-bit rows; their `mask` is `0xFF00000000000000`. -/
def matchOf : Instr → Option CommandWord
  | .init _ => some 0x0100000000000000#64
  | .teardown => some 0x0200000000000000#64
  | .setDisable _ => some 0x0300000000000000#64
  | .status => some 0x0400000000000000#64
  | .setOne .. => some 0x1000000000000000#64
  | .setOneHsv .. => some 0x1100000000000000#64
  | .setAll _ => some 0x1200000000000000#64
  | .setAllHsv _ => some 0x1300000000000000#64
  | .setSpan .. => some 0x1400000000000000#64
  | .clear => some 0x1500000000000000#64
  | .shl _ => some 0x2000000000000000#64
  | .shr _ => some 0x2100000000000000#64
  | .rol _ => some 0x2200000000000000#64
  | .ror _ => some 0x2300000000000000#64
  | .hsv2rgb _ => some 0x3000000000000000#64
  | .update => some 0x4000000000000000#64
  | .notify => none

/-- The word of `i` matches the row of `i`: the masked word is the row's match, or, for the one-bit row, the level is 1. -/
def Statement (i : Instr) : Prop :=
  match encode i with
  | .command w => matchOf i = some (w &&& 0xFF00000000000000#64)
  | .notify level => matchOf i = none ∧ level = 1#1

/-- Masking an assembled word leaves its opcode in the top byte. -/
theorem mask_commandWord (op : BitVec 8) (a b : BitVec 16) (c2 c1 c0 : BitVec 8) :
    commandWord op a b c2 c1 c0 &&& 0xFF00000000000000#64 = commandWord op 0 0 0 0 0 := by
  have hm : (0xFF00000000000000#64 : BitVec 64) = commandWord 0xFF 0 0 0 0 0 := by decide
  rw [hm]
  apply BitVec.eq_of_getLsbD_eq
  intro i hi
  simp only [BitVec.getLsbD_and, getLsbD_commandWord]
  repeat' split
  all_goals first
    | (simp; done)
    | skip
  have h8 : i - 56 < 8 := by omega
  generalize i - 56 = k at h8
  have h255 : (0xFF#8).getLsbD k = true := by
    have : k = 0 ∨ k = 1 ∨ k = 2 ∨ k = 3 ∨ k = 4 ∨ k = 5 ∨ k = 6 ∨ k = 7 := by omega
    rcases this with rfl | rfl | rfl | rfl | rfl | rfl | rfl | rfl <;> decide
  exact (congrArg _ h255).trans (Bool.and_true _)

theorem init (count : Idx) : Statement (.init count) := by simp only [Statement, encode, mask_commandWord, matchOf]; decide
theorem teardown : Statement .teardown := by simp only [Statement, encode, mask_commandWord, matchOf]; decide
theorem setDisable (f : Bool) : Statement (.setDisable f) := by simp only [Statement, encode, mask_commandWord, matchOf]; decide
theorem status : Statement .status := by simp only [Statement, encode, mask_commandWord, matchOf]; decide
theorem setOne (i : Idx) (p : Pixel) : Statement (.setOne i p) := by
  simp only [Statement, encode, mask_commandWord, matchOf]; decide
theorem setOneHsv (i : Idx) (c : Hsv) : Statement (.setOneHsv i c) := by
  simp only [Statement, encode, mask_commandWord, matchOf]; decide
theorem setAll (p : Pixel) : Statement (.setAll p) := by simp only [Statement, encode, mask_commandWord, matchOf]; decide
theorem setAllHsv (c : Hsv) : Statement (.setAllHsv c) := by simp only [Statement, encode, mask_commandWord, matchOf]; decide
theorem setSpan (low high : Idx) (p : Pixel) : Statement (.setSpan low high p) := by
  simp only [Statement, encode, mask_commandWord, matchOf]; decide
theorem clear : Statement .clear := by simp only [Statement, encode, mask_commandWord, matchOf]; decide
theorem shl (n : Idx) : Statement (.shl n) := by simp only [Statement, encode, mask_commandWord, matchOf]; decide
theorem shr (n : Idx) : Statement (.shr n) := by simp only [Statement, encode, mask_commandWord, matchOf]; decide
theorem rol (n : Idx) : Statement (.rol n) := by simp only [Statement, encode, mask_commandWord, matchOf]; decide
theorem ror (n : Idx) : Statement (.ror n) := by simp only [Statement, encode, mask_commandWord, matchOf]; decide
theorem hsv2rgb (c : Hsv) : Statement (.hsv2rgb c) := by simp only [Statement, encode, mask_commandWord, matchOf]; decide
theorem update : Statement .update := by simp only [Statement, encode, mask_commandWord, matchOf]; decide
theorem notify : Statement .notify := ⟨rfl, rfl⟩

end Sys2Proof.Laws.TableRow
end

