-- ==== Sys2Proof/Tests/Slice0.lean ====
section
/-! SUPPORT. The model's own tests: the well-formedness smoke, words written out from the spec's encodings, single steps
against the vectors of spec/95_test_vectors.md, and a state that meets the hypotheses of each obligation. -/

namespace Sys2Proof.Tests

open Sys2Proof.Machine

/-! ## Well-formedness: one ill-formed term for each check -/

theorem test_cfg_reference_wellFormed : Config.reference.wellFormed = true := by decide
theorem test_cfg_no_leds : ({ Config.reference with maxLeds := 0 } : Config).wellFormed = false := by decide
theorem test_cfg_too_many_leds : ({ Config.reference with maxLeds := 65536 } : Config).wellFormed = false := by decide
theorem test_cfg_t0_zero : ({ Config.reference with t0Count := 0 } : Config).wellFormed = false := by decide
theorem test_cfg_t1_equals_t0 : ({ Config.reference with t1Count := 29 } : Config).wellFormed = false := by decide
theorem test_cfg_t1_above_period : ({ Config.reference with t1Count := 91 } : Config).wellFormed = false := by decide
theorem test_cfg_period_too_wide :
    ({ Config.reference with periodCount := 256, tcW := 8 } : Config).wellFormed = false := by decide
theorem test_cfg_no_width :
    ({ Config.reference with t0Count := 0, t1Count := 0, periodCount := 0, tcW := 0 } : Config).wellFormed = false := by
  decide

theorem test_line_index_too_large : (AsmLine.setOne 65536 0 0 0).wellFormed = false := by decide
theorem test_line_channel_too_large :
    (AsmLine.setOne 0 256 0 0).wellFormed = false ∧ (AsmLine.setOne 0 0 256 0).wellFormed = false ∧
      (AsmLine.setOne 0 0 0 256).wellFormed = false := by decide
theorem test_line_flag_too_large : (AsmLine.setDisable 2).wellFormed = false := by decide
theorem test_line_amounts_too_large :
    (AsmLine.init 65536).wellFormed = false ∧ (AsmLine.shl 65536).wellFormed = false ∧
      (AsmLine.shr 65536).wellFormed = false ∧ (AsmLine.rol 65536).wellFormed = false ∧
      (AsmLine.ror 65536).wellFormed = false := by decide
theorem test_line_hsv_too_large :
    (AsmLine.setOneHsv 65536 0 0 0).wellFormed = false ∧ (AsmLine.setOneHsv 0 65536 0 0).wellFormed = false ∧
      (AsmLine.setOneHsv 0 0 256 0).wellFormed = false ∧ (AsmLine.setOneHsv 0 0 0 256).wellFormed = false ∧
      (AsmLine.setAllHsv 65536 0 0).wellFormed = false ∧ (AsmLine.setAllHsv 0 256 0).wellFormed = false ∧
      (AsmLine.setAllHsv 0 0 256).wellFormed = false ∧ (AsmLine.hsv2rgb 65536 0 0).wellFormed = false ∧
      (AsmLine.hsv2rgb 0 256 0).wellFormed = false ∧ (AsmLine.hsv2rgb 0 0 256).wellFormed = false := by decide
theorem test_line_all_and_span_too_large :
    (AsmLine.setAll 256 0 0).wellFormed = false ∧ (AsmLine.setAll 0 256 0).wellFormed = false ∧
      (AsmLine.setAll 0 0 256).wellFormed = false ∧ (AsmLine.setSpan 65536 0 0 0 0).wellFormed = false ∧
      (AsmLine.setSpan 0 65536 0 0 0).wellFormed = false ∧ (AsmLine.setSpan 0 0 256 0 0).wellFormed = false ∧
      (AsmLine.setSpan 0 0 0 256 0).wellFormed = false ∧ (AsmLine.setSpan 0 0 0 0 256).wellFormed = false := by decide
theorem test_ill_formed_line_assembles_to_nothing : (AsmLine.setOne 65536 0 0 0).assemble = none := by decide

/-! ## Decoding: every constructor's word from the spec (spec/95_test_vectors.md, words of V1 to V7 and P1 to P4) -/

theorem test_decode_init : decode (.command 0x01012C0000000000#64) = .ok (.init 300) := by decide
theorem test_decode_teardown : decode (.command 0x0200000000000000#64) = .ok .teardown := by decide
/-- Only bit 16 counts (V6: `C2 = 0xFE`, and the word with junk in its ignored fields). -/
theorem test_decode_setDisable :
    decode (.command 0x0300000000FE0000#64) = .ok (.setDisable false) ∧
      decode (.command 0x0312345678019ABC#64) = .ok (.setDisable true) := by decide
theorem test_decode_status : decode (.command 0x0400000000FFFFFF#64) = .ok .status := by decide
theorem test_decode_setOne : decode (.command 0x1000000000FF8001#64) = .ok (.setOne 0 ⟨255, 128, 1⟩) := by decide
theorem test_decode_setOneHsv : decode (.command 0x1100020190C83200#64) = .ok (.setOneHsv 2 ⟨400, 200, 50⟩) := by decide
/-- `A` is ignored (V2). -/
theorem test_decode_setAll : decode (.command 0x12FFFF0000FF0080#64) = .ok (.setAll ⟨255, 0, 128⟩) := by decide
theorem test_decode_setAllHsv : decode (.command 0x13000000C8503C00#64) = .ok (.setAllHsv ⟨200, 80, 60⟩) := by decide
theorem test_decode_setSpan : decode (.command 0x1400030004090807#64) = .ok (.setSpan 3 4 ⟨9, 8, 7⟩) := by decide
theorem test_decode_clear : decode (.command 0x15DEADBEEF123456#64) = .ok .clear := by decide
theorem test_decode_shl : decode (.command 0x20FFFF0000000000#64) = .ok (.shl 65535) := by decide
theorem test_decode_shr : decode (.command 0x2100020000000000#64) = .ok (.shr 2) := by decide
theorem test_decode_rol : decode (.command 0x2200040000000000#64) = .ok (.rol 4) := by decide
theorem test_decode_ror : decode (.command 0x2300050000000000#64) = .ok (.ror 5) := by decide
theorem test_decode_hsv2rgb : decode (.command 0x300000007B2D4300#64) = .ok (.hsv2rgb ⟨123, 45, 67⟩) := by decide
theorem test_decode_update : decode (.command 0x40FFFFFFFFFFFFFF#64) = .ok .update := by decide
theorem test_decode_notify :
    decode (.notify 1#1) = .ok .notify ∧ decode (.notify 0#1) = .error .noEvent := by decide
/-- The ends of the reserved runs (V7). -/
theorem test_decode_reserved :
    decode (.command 0x0000000000000000#64) = .error (.reservedOpcode 0x00) ∧
      decode (.command 0x0F00000000000000#64) = .error (.reservedOpcode 0x0F) ∧
      decode (.command 0x1600010000010203#64) = .error (.reservedOpcode 0x16) ∧
      decode (.command 0x2400010000000000#64) = .error (.reservedOpcode 0x24) ∧
      decode (.command 0x3100000000646400#64) = .error (.reservedOpcode 0x31) ∧
      decode (.command 0x4100000000000000#64) = .error (.reservedOpcode 0x41) := by decide
theorem test_encode_setSpan :
    encode (.setSpan 1 3 ⟨0, 0, 255⟩) = .command 0x14000100030000FF#64 := by decide
theorem test_decodeTableWord :
    decodeTableWord 64 0x2000020000000000 = some (.shl 2) ∧ decodeTableWord 8 1 = some .notify ∧
      decodeTableWord 64 0 = none := by decide
theorem test_waitIdleAgain : waitIdleAgain 0x00000303#32 = some .status ∧ waitIdleAgain 0x00000302#32 = none := by
  decide

/-! ## Single steps -/

/-- A live Instance with these pixels, in the reference configuration. -/
def liveWith (pb : List Pixel) : State :=
  { State.reset with life := .live, count := BitVec.ofNat 16 pb.length, pb := pb }

/-- The five pixels of V2. -/
def five : State := liveWith [⟨1, 1, 1⟩, ⟨2, 2, 2⟩, ⟨3, 3, 3⟩, ⟨4, 4, 4⟩, ⟨5, 5, 5⟩]

/-- One green pixel, the buffer of S7 and V5. -/
def green : State := liveWith [⟨0, 255, 0⟩]

/-- The frame of S7 in CFG72: eight 50, sixteen 29, forty-eight 0. -/
def greenFrame : List Nat := List.replicate 8 50 ++ List.replicate 16 29 ++ List.replicate 48 0

/-- `green` with its frame in flight. -/
def greenBusy : State := { green with busy := true, tb := greenFrame }

/-- After teardown. -/
def dead : State := { State.reset with life := .dead }

/-- The next state, if there is one. -/
def next? : Result → Option State
  | .next s => some s
  | .fault _ => none
  | .refused _ => none

/-- The response and the pixels after an instruction. -/
def pixelsAfter (i : Instr) (s : State) : Option (Option ResponseWord × List Pixel) :=
  (next? (exec i s)).map fun t => (t.out.response, t.pb)

/-- The response and the four control items after an instruction. -/
def controlAfter (i : Instr) (s : State) : Option (Option ResponseWord × Life × BitVec 16 × Bool × Bool) :=
  (next? (exec i s)).map fun t => (t.out.response, t.life, t.count, t.busy, t.disable)

theorem test_setOne_last_index : pixelsAfter (.setOne 4 ⟨255, 255, 255⟩) five =
    some (some 0x00000000#32, [⟨1, 1, 1⟩, ⟨2, 2, 2⟩, ⟨3, 3, 3⟩, ⟨4, 4, 4⟩, ⟨255, 255, 255⟩]) := by decide
theorem test_setOne_out_of_range : pixelsAfter (.setOne 5 ⟨1, 1, 1⟩) five = some (some 0x10000000#32, five.pb) := by decide
theorem test_setOneHsv_clamps : pixelsAfter (.setOneHsv 2 ⟨400, 200, 50⟩) five =
    some (some 0x00000000#32, [⟨1, 1, 1⟩, ⟨2, 2, 2⟩, ⟨127, 0, 2⟩, ⟨4, 4, 4⟩, ⟨5, 5, 5⟩]) := by decide
theorem test_setAll : pixelsAfter (.setAll ⟨255, 0, 128⟩) five =
    some (some 0x00000000#32, List.replicate 5 ⟨255, 0, 128⟩) := by decide
theorem test_setAllHsv : pixelsAfter (.setAllHsv ⟨200, 80, 60⟩) five =
    some (some 0x00000000#32, List.replicate 5 ⟨30, 112, 153⟩) := by decide
theorem test_setSpan_inclusive : pixelsAfter (.setSpan 1 3 ⟨0, 0, 255⟩) five =
    some (some 0x00000000#32, [⟨1, 1, 1⟩, ⟨0, 0, 255⟩, ⟨0, 0, 255⟩, ⟨0, 0, 255⟩, ⟨5, 5, 5⟩]) := by decide
/-- The index check comes before the order check. -/
theorem test_setSpan_index_before_order :
    pixelsAfter (.setSpan 5 2 ⟨7, 7, 7⟩) five = some (some 0x10000000#32, five.pb) ∧
      pixelsAfter (.setSpan 3 1 ⟨9, 9, 9⟩) five = some (some 0x20000000#32, five.pb) := by decide
theorem test_clear : pixelsAfter .clear five = some (some 0x00000000#32, List.replicate 5 ⟨0, 0, 0⟩) := by decide
theorem test_shl : pixelsAfter (.shl 2) five =
    some (some 0x00000000#32, [⟨3, 3, 3⟩, ⟨4, 4, 4⟩, ⟨5, 5, 5⟩, ⟨0, 0, 0⟩, ⟨0, 0, 0⟩]) := by decide
/-- The sum of the index and the amount is not reduced modulo 2^16. -/
theorem test_shl_largest_amount : pixelsAfter (.shl 65535) five =
    some (some 0x00000000#32, List.replicate 5 ⟨0, 0, 0⟩) := by decide
theorem test_shr : pixelsAfter (.shr 2) five =
    some (some 0x00000000#32, [⟨0, 0, 0⟩, ⟨0, 0, 0⟩, ⟨1, 1, 1⟩, ⟨2, 2, 2⟩, ⟨3, 3, 3⟩]) := by decide
theorem test_shr_largest_amount : pixelsAfter (.shr 65535) five =
    some (some 0x00000000#32, List.replicate 5 ⟨0, 0, 0⟩) := by decide
theorem test_rol : pixelsAfter (.rol 2) five =
    some (some 0x00000000#32, [⟨3, 3, 3⟩, ⟨4, 4, 4⟩, ⟨5, 5, 5⟩, ⟨1, 1, 1⟩, ⟨2, 2, 2⟩]) := by decide
theorem test_rol_by_count : pixelsAfter (.rol 5) five = some (some 0x20000000#32, five.pb) := by decide
theorem test_ror : pixelsAfter (.ror 1) five =
    some (some 0x00000000#32, [⟨5, 5, 5⟩, ⟨1, 1, 1⟩, ⟨2, 2, 2⟩, ⟨3, 3, 3⟩, ⟨4, 4, 4⟩]) := by decide
theorem test_ror_by_count : pixelsAfter (.ror 5) five = some (some 0x20000000#32, five.pb) := by decide

/-- Rows of V1: truncation, the falling ramp, the clamp. -/
theorem test_hsv2rgb_rows :
    hsv2rgb ⟨30, 100, 100⟩ = ⟨255, 127, 0⟩ ∧ hsv2rgb ⟨90, 100, 100⟩ = ⟨128, 255, 0⟩ ∧
      hsv2rgb ⟨150, 100, 100⟩ = ⟨0, 255, 127⟩ ∧ hsv2rgb ⟨210, 100, 100⟩ = ⟨0, 128, 255⟩ ∧
      hsv2rgb ⟨270, 100, 100⟩ = ⟨127, 0, 255⟩ ∧ hsv2rgb ⟨330, 100, 50⟩ = ⟨127, 0, 64⟩ ∧
      hsv2rgb ⟨123, 45, 67⟩ = ⟨93, 170, 97⟩ ∧ hsv2rgb ⟨45, 37, 99⟩ = ⟨252, 228, 158⟩ ∧
      hsv2rgb ⟨65535, 255, 255⟩ = ⟨255, 0, 5⟩ := by decide
/-- P4 step 6: `HSV2RGB` succeeds without an Instance. -/
theorem test_hsv2rgb_command : pixelsAfter (.hsv2rgb ⟨400, 200, 50⟩) State.reset = some (some 0x007F0002#32, []) := by decide

/-- V4, the row (18, 165, 129): green first, each byte with bit 7 first. -/
theorem test_encode_channel_order : encodeFrame { Config.reference with resetSlots := 0 } [⟨18, 165, 129⟩] false =
    [50, 29, 50, 29, 29, 50, 29, 50, 29, 29, 29, 50, 29, 29, 50, 29, 50, 29, 29, 29, 29, 29, 29, 50] := by decide
theorem test_encode_disabled : encodeFrame Config.reference [⟨255, 255, 255⟩] true = List.replicate 72 0 := by decide

/-- V5: an accepted start. -/
theorem test_update_accepted : (next? (exec .update { green with answers := [true] })).map
    (fun t => (t.busy, t.tb, t.out.response, t.out.start)) =
    some (true, greenFrame, some 0x00000000#32, some 72) := by decide
/-- V5: a rejected start keeps the new encoding and is not left Busy. -/
theorem test_update_rejected : (next? (exec .update { green with answers := [false] })).map
    (fun t => (t.busy, t.tb, t.out.response, t.out.start)) =
    some (false, greenFrame, some 0x50000000#32, some 72) := by decide
theorem test_notify_clears_busy : controlAfter .notify greenBusy = some (none, .live, 1, false, false) := by decide
theorem test_notify_when_dead : controlAfter .notify dead = some (none, .dead, 0, false, false) := by decide

theorem test_init_full_capacity : controlAfter (.init 300) State.reset =
    some (some 0x00000000#32, .live, 300, false, false) := by decide
/-- The dead check, then the live check, then the zero check, then the capacity check. -/
theorem test_init_checks :
    [dead, green, State.reset, State.reset].zipWith (fun s c => (next? (exec (.init c) s)).map (·.out.response))
      [0, 0, 0, 301] =
    [some (some 0x30000000#32), some (some 0x40000000#32), some (some 0x20000000#32), some (some 0x40000000#32)] := by
  decide
theorem test_teardown_keeps_disable : controlAfter .teardown { green with disable := true } =
    some (some 0x00000000#32, .dead, 0, false, true) := by decide
theorem test_teardown_holds : (next? (exec .teardown greenBusy)).map (fun t => (t.held, t.life, t.out.response)) =
    some (some .teardown, .live, none) := by decide
theorem test_setDisable : controlAfter (.setDisable true) greenBusy = some (some 0x00000000#32, .live, 1, true, true) := by
  decide
theorem test_setDisable_uninit : controlAfter (.setDisable true) State.reset =
    some (some 0x30000000#32, .uninit, 0, false, false) := by decide
/-- V6: `LIVE, 300, 0, 1` reads `0x00012C0A`. -/
theorem test_status_live : controlAfter .status { State.reset with life := .live, count := 300, disable := true } =
    some (some 0x00012C0A#32, .live, 300, false, true) := by decide
theorem test_status_dead : controlAfter .status { dead with disable := true } =
    some (some 0x0000000C#32, .dead, 0, false, true) := by decide

/-- A word placed for the next step is the one that runs: `INIT 3` from reset (P1 step 1). -/
theorem test_withFetchWord : (next? (step (State.reset.withFetchWord 64 0x0100030000000000))).map
    (fun t => (t.life, t.pb, t.out.response)) = some (.live, List.replicate 3 ⟨0, 0, 0⟩, some 0x00000000#32) := by decide
/-- V7: a reserved opcode is not held while `BUSY = 1`. -/
theorem test_reserved_opcode_step : (next? (step (greenBusy.withFetchWord 64 0xFF00000000001234))).map
    (fun t => (t.held, t.busy, t.out.response)) = some (none, true, some 0x60000000#32) := by decide

/-! ## Witnesses: for each obligation with hypotheses, inputs that meet them, clause by clause -/

/-- A word that is `UPDATE` (P1 step 3). -/
def updateWord : CommandWord := 0x4000000000000000#64

/-- `s` with the turns `ts` to come. -/
def facing (s : State) (ts : List Turn) : State := { s with turns := ts }

theorem witness_RejectedWordsAreThoseWithAReservedOpcode :
    (0x40FFFFFFFFFFFFFF#64 : CommandWord).extractLsb' 56 8 ∈ definedOpcodes ∧
      (0x4100000000000000#64 : CommandWord).extractLsb' 56 8 ∉ definedOpcodes ∧
      (0x0000000000000000#64 : CommandWord).extractLsb' 56 8 ∉ definedOpcodes := by decide

theorem witness_IgnoredFieldsMakeNoDifference :
    decode (.command 0x2000020000000000#64) = .ok (.shl 2) ∧
      0x2000020000000000#64 &&& usedMask (.shl 2) = 0x20000200FFFFFFFF#64 &&& usedMask (.shl 2) := by decide

theorem witness_AssembledLinesDecodeToTheirInstructions :
    (AsmLine.setOne 65535 255 255 255).wellFormed = true ∧ (AsmLine.setOne 65536 0 0 0).wellFormed = false ∧
      65535 < 65536 ∧ 1 < 2 ∧ 255 < 256 := by decide

theorem witness_StepRunsTheDecodedInstruction_host :
    green.cfg.wellFormed = true ∧ (facing green [.host updateWord]).turns = [.host updateWord] ∧ green.held = none ∧
      decode (.command updateWord) = .ok .update := by decide
theorem witness_StepRunsTheDecodedInstruction_notify :
    (facing green [.notify 1#1]).turns = [.notify 1#1] ∧ (facing green [.notify 0#1]).turns = [.notify 0#1] := by decide
theorem witness_StepRunsTheDecodedInstruction_core :
    let u := { facing greenBusy [.core] with held := some .update }
    let t := { facing greenBusy [.core] with held := some .teardown }
    u.turns = [.core] ∧ u.held = some .update ∧ t.turns = [.core] ∧ t.held = some .teardown ∧
      (facing green [.core]).turns = [.core] ∧ (facing green [.core]).held = none := by decide
theorem witness_StepRunsTheDecodedInstruction_empty :
    let u := { greenBusy with held := some .update }
    let t := { greenBusy with held := some .teardown }
    u.turns = [] ∧ u.held = some .update ∧ t.turns = [] ∧ t.held = some .teardown ∧ green.turns = [] ∧
      green.held = none := by decide

theorem witness_ReservedOpcodeAnswersIllegalCommand :
    (facing greenBusy [.host 0xFF00000000001234#64]).cfg.wellFormed = true ∧ greenBusy.held = none ∧
      (facing greenBusy [.host 0xFF00000000001234#64]).turns = [.host 0xFF00000000001234#64] ∧
      (0xFF00000000001234#64 : CommandWord).extractLsb' 56 8 ∉ definedOpcodes := by decide

theorem witness_OnlyTwoRunsAreRefused :
    let second := { facing greenBusy [.host updateWord] with held := some .update }
    let bad := { green with cfg := { Config.reference with t0Count := 50 } }
    bad.cfg.wellFormed = false ∧ second.cfg.wellFormed = true ∧ second.turns = [.host updateWord] ∧
      second.held ≠ none ∧ green.cfg.wellFormed = true ∧ green.held = none := by decide

theorem witness_HueWheelAtFullSaturationAndValue :
    let at_ := fun h : BitVec 16 => (⟨h, 100, 100⟩ : Hsv)
    100 ≤ (at_ 0).s.toNat ∧ 100 ≤ (at_ 0).v.toNat ∧ (at_ 0).h.toNat = 0 ∧ (at_ 59).h.toNat = 59 ∧
      (at_ 119).h.toNat = 60 + 59 ∧ (at_ 179).h.toNat = 120 + 59 ∧ (at_ 239).h.toNat = 180 + 59 ∧
      (at_ 299).h.toNat = 240 + 59 ∧ (at_ 359).h.toNat = 300 + 59 ∧ 359 ≤ (at_ 359).h.toNat ∧
      359 ≤ (at_ 65535).h.toNat := by decide

theorem witness_HsvOperandsSaturate :
    359 ≤ (⟨360, 101, 255⟩ : Hsv).h.toNat ∧ 100 ≤ (⟨360, 101, 255⟩ : Hsv).s.toNat ∧
      100 ≤ (⟨360, 101, 255⟩ : Hsv).v.toNat := by decide

theorem witness_Hsv2rgbAnswersThePackedPixelInEveryState :
    (⟨210, 0, 0⟩ : Hsv).v = 0 ∧ (⟨123, 0, 77⟩ : Hsv).s = 0 := by decide

theorem witness_SetOneOverwritesExactlyOnePixel :
    (Instr.setOneHsv 4 ⟨120, 100, 100⟩ = .setOne 4 ⟨0, 255, 0⟩ ∨
      ∃ c, Instr.setOneHsv 4 ⟨120, 100, 100⟩ = .setOneHsv 4 c ∧ ⟨0, 255, 0⟩ = hsv2rgb c) ∧
      dead.life ≠ .live ∧ five.life = .live ∧ Memory.wf five = true ∧ (4 : Idx).toNat < five.count.toNat ∧
      five.count.toNat ≤ (5 : Idx).toNat := by
  refine ⟨.inr ⟨⟨120, 100, 100⟩, rfl, by decide⟩, ?_⟩
  decide

theorem witness_SetAllOverwritesEveryPixel :
    (Instr.clear = .setAll ⟨0, 0, 0⟩ ∨ (∃ c, Instr.clear = .setAllHsv c ∧ (⟨0, 0, 0⟩ : Pixel) = hsv2rgb c) ∨
      (Instr.clear = .clear ∧ (⟨0, 0, 0⟩ : Pixel) = ⟨0, 0, 0⟩)) ∧
      State.reset.life ≠ .live ∧ five.life = .live ∧ Memory.wf five = true := by
  refine ⟨.inr (.inr ⟨rfl, rfl⟩), ?_⟩
  decide

theorem witness_SetSpanOverwritesTheSpan :
    State.reset.life ≠ .live ∧ five.life = .live ∧ Memory.wf five = true ∧
      five.count.toNat ≤ (5 : Idx).toNat ∧
      (3 : Idx).toNat < five.count.toNat ∧ (1 : Idx).toNat < (3 : Idx).toNat ∧
      (2 : Idx).toNat ≤ (2 : Idx).toNat ∧ (4 : Idx).toNat < five.count.toNat := by decide

theorem witness_PixelCommandsIgnoreBusyAndLeaveTb : isPixelInstr (.shr 65535) = true ∧ isPixelInstr .clear = true := by
  decide

/-- The hypotheses of the four transform statements: an amount below, at and above `COUNT`. -/
theorem witness_transforms :
    dead.life ≠ .live ∧ five.life = .live ∧ Memory.wf five = true ∧ (4 : Idx).toNat < five.count.toNat ∧
      five.count.toNat ≤ (5 : Idx).toNat ∧ five.count.toNat ≤ (65535 : Idx).toNat := by decide

theorem witness_RotationsUndoEachOther :
    five.life = .live ∧ Memory.wf five = true ∧ (0 : Idx).toNat < five.count.toNat ∧
      (4 : Idx).toNat < five.count.toNat := by decide

/-- The sum wraps around the ring (V3: `ROL 2` then `ROL 4` is `ROL 1`). -/
theorem witness_LeftRotationsAddUp :
    five.life = .live ∧ Memory.wf five = true ∧ (2 : Idx).toNat < five.count.toNat ∧
      (4 : Idx).toNat < five.count.toNat ∧ (1 : Idx).toNat = ((2 : Idx).toNat + (4 : Idx).toNat) % five.count.toNat := by
  decide

theorem witness_ShiftsAddUp :
    five.life = .live ∧ Memory.wf five = true ∧ (65535 : Idx).toNat = (65534 : Idx).toNat + (1 : Idx).toNat := by decide

theorem witness_ShiftThereAndBackBlackensTheLowEnd : five.life = .live ∧ Memory.wf five = true := by decide

theorem witness_EncodedFrameHasTheAddressMap :
    ([⟨18, 165, 129⟩, ⟨1, 2, 3⟩] : List Pixel)[1]? = some ⟨1, 2, 3⟩ ∧ 7 < 8 ∧ 47 < Config.reference.resetSlots ∧
      95 < 24 * ([⟨18, 165, 129⟩, ⟨1, 2, 3⟩] : List Pixel).length + Config.reference.resetSlots := by decide

theorem witness_DisabledFrameIsAllOffAndNotBlack :
    Config.reference.wellFormed = true ∧ ([⟨255, 255, 255⟩] : List Pixel) ≠ [] := by decide

theorem witness_EncodedFrameDecodesBackToThePixels : Config.reference.t0Count ≠ Config.reference.t1Count := by decide

theorem witness_UpdateEncodesAndStarts :
    let listed := { green with answers := [false, true] }
    State.reset.life ≠ .live ∧ greenBusy.life = .live ∧ greenBusy.busy = true ∧ listed.life = .live ∧
      listed.busy = false ∧ listed.answers = false :: [true] ∧ listed.draws = 0 := by decide
/-- The other way to an answer: none is listed, and it is the free value, whatever that is. -/
theorem witness_UpdateEncodesAndStarts_free :
    green.life = .live ∧ green.busy = false ∧ green.answers = [] ∧
      ∃ a, a = Config.freeStartAnswer green.draws := ⟨by decide, by decide, by decide, _, rfl⟩

theorem witness_TbIsImmutableDuringATransfer :
    let s := facing greenBusy [.host 0x1200000000010203#64]
    (∃ t, step s = .next t) ∧ s.busy = true ∧ (∀ rest, s.turns ≠ .reset :: rest) := by
  refine ⟨⟨_, rfl⟩, rfl, by simp [facing]⟩
/-- `TB` is written by a held `UPDATE` and released by a presented or held `TEARDOWN` and by reset. -/
theorem witness_TbIsImmutableDuringATransfer_changes :
    [{ green with held := some .update, answers := [true] },
      { facing greenBusy [.host 0x0200000000000000#64] with busy := false },
      { greenBusy with busy := false, held := some .teardown }, facing greenBusy [.reset]].map
        (fun s => (next? (step s)).map fun t => (decide (t.tb ≠ s.tb), decide (t.tb = []))) =
      [some (true, false), some (true, true), some (true, true), some (true, true)] := by decide

theorem witness_BusyRisesOnlyAtAnAcceptedStart :
    let up := { facing green [.host updateWord] with answers := [true] }
    up.busy = false ∧ (next? (step up)).map (·.busy) = some true ∧
      greenBusy.busy = true ∧ (next? (step (facing greenBusy [.notify 1#1]))).map (·.busy) = some false ∧
      (next? (step (facing greenBusy [.reset]))).map (·.busy) = some false := by decide

theorem witness_StartIsRequestedOnlyByAProceedStep :
    (next? (step { facing green [.host updateWord] with answers := [false] })).map (·.out.start) = some (some 72) ∧
      (next? (step { green with held := some .update, answers := [true] })).map (·.out.start) = some (some 72) := by
  decide

theorem witness_HoldChangesNothing :
    let s := { facing greenBusy [.tbRead 0] with held := some .teardown }
    s.life = .live ∧ s.busy = true ∧ s.held = some .teardown ∧ ¬ endsBusy s ∧ ∃ t, step s = .next t := by
  refine ⟨rfl, rfl, rfl, ?_, _, rfl⟩
  rintro (⟨rest, h⟩ | ⟨rest, h⟩) <;> simp [facing] at h

/-- Passive turns on both sides of the `NOTIFY`; the CORE's turn is listed, or is the empty list. -/
theorem witness_HeldCommandCompletesAfterNotify :
    let before : List Turn := [.core, .tbRead 71, .notify 0#1]
    let after : List Turn := [.notify 0#1, .tbRead 0]
    let listed := { facing greenBusy (before ++ .notify 1#1 :: (after ++ [.core])) with held := some .update }
    let empty := { facing greenBusy (before ++ .notify 1#1 :: (after ++ [])) with held := some .teardown }
    listed.cfg.wellFormed = true ∧ listed.life = .live ∧ listed.busy = true ∧ listed.held = some .update ∧
      listed.turns = before ++ .notify 1#1 :: (after ++ [.core]) ∧
      empty.held = some .teardown ∧ empty.turns = before ++ .notify 1#1 :: (after ++ []) ∧
      (∀ t ∈ before, passiveTurn t = true) ∧ ∀ t ∈ after, passiveTurn t = true ∧ t ≠ .core := by
  refine ⟨rfl, rfl, rfl, rfl, rfl, rfl, rfl, ?_, ?_⟩ <;> decide

/-- Two accepted starts with a `NOTIFY` between them (P3 steps 5 to 10). -/
def twoFrames : State :=
  { facing green [.host updateWord, .notify 1#1, .host updateWord] with answers := [true, true] }

theorem witness_NoSecondStartBeforeNotify :
    ∃ s' t, acceptsStart twoFrames ∧ step twoFrames = .next s' ∧ steps 1 s' = .next t ∧ acceptsStart t :=
  ⟨_, _, ⟨_, rfl, by decide, rfl⟩, rfl, rfl, _, rfl, by decide, rfl⟩

theorem witness_NotifyAtTheSameInstantGoesFirst :
    let s := facing greenBusy (sameInstant 1#1 (.host updateWord) ++ [])
    s.cfg.wellFormed = true ∧ s.held = none ∧ s.turns = sameInstant 1#1 (.host updateWord) ++ [] ∧
      decode (.command updateWord) = .ok .update := by decide

/-- The last element, the first index past the end, no Instance, and an element no encode has written. -/
theorem witness_TbReadReturnsTheEncodedElement :
    greenBusy.cfg.wellFormed = true ∧ (facing greenBusy [.tbRead 71]).turns = [.tbRead 71] ∧ greenBusy.life = .live ∧
      71 < 24 * greenBusy.count.toNat + greenBusy.cfg.resetSlots ∧ greenBusy.tb[71]? = some 0 ∧
      24 * greenBusy.count.toNat + greenBusy.cfg.resetSlots ≤ 72 ∧ dead.life ≠ .live ∧ green.tb[0]? = none := by decide

/-- A state of a run with a transfer in flight meets the invariant. -/
theorem greenBusy_inv : Inv greenBusy :=
  { cfg_wf := by decide, no_count := by decide, disable_clear := by decide, count_pos := by decide,
    count_le := by decide, busy_live := by decide, held_live := by decide, mem_wf := by decide,
    tb_values := by decide, busy_frame := by decide }

/-- The transfer of `greenBusy` with its last element still to be read. -/
def lastRead : Option Transfer := some { n := 72, unread := [71] }

theorem lastRead_inStep {ts : List Turn} : InStep lastRead (facing greenBusy ts) :=
  { busy_iff := by simp [lastRead, facing, greenBusy], count_eq := by intro x hx; cases hx; rfl }

theorem witness_HonestReadsSeeTheFrame :
    let s := facing greenBusy [.tbRead 71]
    Inv s ∧ InStep lastRead s ∧ honoursContract lastRead s ∧ s.turns = [.tbRead 71] :=
  ⟨{ greenBusy_inv with }, lastRead_inStep, ⟨_, rfl, by decide⟩, rfl⟩

theorem witness_InitClaimsABlackBuffer :
    dead.life = .dead ∧ green.life = .live ∧ State.reset.life = .uninit ∧ (0 : Idx).toNat = 0 ∧
      State.reset.cfg.maxLeds < (301 : Idx).toNat ∧ 1 ≤ (1 : Idx).toNat ∧ (300 : Idx).toNat ≤ State.reset.cfg.maxLeds := by
  decide

theorem witness_TeardownReleasesTheInstance :
    dead.life ≠ .live ∧ greenBusy.life = .live ∧ greenBusy.busy = true ∧ green.life = .live ∧ green.busy = false := by
  decide

theorem witness_SetDisableWritesTheFlagOnly : State.reset.life ≠ .live ∧ greenBusy.life = .live := by decide

theorem witness_StatusReadsTheControlState :
    State.reset.life = .uninit ∧ green.life = .live ∧ dead.life = .dead := by decide

theorem witness_LifeChangesOnlyByInitTeardownReset :
    (next? (step (facing State.reset [.host 0x0100030000000000#64]))).map (·.life) = some .live ∧
      (next? (step { green with held := some .teardown })).map (·.life) = some .dead ∧
      (next? (step (facing green [.host 0x0200000000000000#64]))).map (·.life) = some .dead ∧
      (next? (step (facing dead [.reset]))).map (·.life) = some .uninit := by decide

theorem witness_LedCountIsFixedWhileLive :
    (next? (step (facing five [.host 0x2000010000000000#64]))).map (·.life) = some .live ∧ five.life = .live := by decide

/-- Each item of state is changed by some instruction. -/
theorem witness_OnlyTheNamedInstructionsWriteEachItem :
    let u := { green with answers := [true] }
    (next? (exec (.init 3) State.reset)).map
      (fun t => decide (t.life ≠ .uninit ∧ t.count ≠ 0 ∧ t.pb ≠ [])) = some true ∧
      (next? (exec .update u)).map
        (fun t => decide (t.busy ≠ u.busy ∧ t.tb ≠ u.tb ∧ t.answers ≠ u.answers)) = some true ∧
      (next? (exec (.setDisable true) u)).map (fun t => decide (t.disable ≠ u.disable)) = some true := by decide

theorem witness_NoInstanceMeansNotInitialized :
    dead.life ≠ .live ∧ Instr.init 3 ≠ .status ∧ (∀ c, Instr.init 3 ≠ .hsv2rgb c) ∧ Instr.init 3 ≠ .notify ∧
      (dead.life = .uninit → ∀ c, Instr.init 3 ≠ .init c) := by
  refine ⟨by decide, by decide, by simp, by decide, by simp [dead]⟩

theorem witness_FailingCommandsChangeNothing :
    (next? (exec (.rol 5) five)).map (·.out.response) = some (some 0x20000000#32) ∧
      (next? (exec .update { green with answers := [false] })).map (·.out.response) = some (some 0x50000000#32) ∧
      responseStatus 0x20000000#32 ≠ 0#4 ∧ responseStatus 0x50000000#32 ≠ 0#4 := by decide

theorem witness_ResponseWordsHaveTheLayout :
    (next? (exec .status greenBusy)).map (·.out.response) = some (some 0x00000103#32) ∧
      (next? (exec .clear green)).map (·.out.response) = some (some 0x00000000#32) := by decide

/-- A response with each code that a defined command can report. -/
theorem witness_EachErrorHasItsCause :
    [(Instr.setOne 5 ⟨1, 1, 1⟩, five), (.rol 5, five), (.clear, dead), (.init 301, State.reset),
      (.update, { green with answers := [false] })].map (fun x => (next? (exec x.1 x.2)).map (·.out.response)) =
      [some (some 0x10000000#32), some (some 0x20000000#32), some (some 0x30000000#32), some (some 0x40000000#32),
        some (some 0x50000000#32)] ∧
      [0x10000000#32, 0x20000000#32, 0x30000000#32, 0x40000000#32, 0x50000000#32].map responseStatus =
        [1#4, 2#4, 3#4, 4#4, 5#4] := by decide

theorem witness_ResetLeavesTheResetValues :
    let s := { facing greenBusy [.reset] with held := some .update }
    s.cfg.wellFormed = true ∧ s.turns = [.reset] := by decide

theorem witness_ResetMeetsTheInvariant : Config.reference.wellFormed = true := by decide

theorem witness_EveryStepKeepsTheInvariant :
    Inv (facing greenBusy [.notify 1#1]) ∧ ∃ t, step (facing greenBusy [.notify 1#1]) = .next t :=
  ⟨{ greenBusy_inv with }, _, rfl⟩

theorem witness_WaitIdleRepeatsStatusWhileBusy :
    (0x00000303#32 : ResponseWord).getLsbD 0 = true ∧ (0x00000302#32 : ResponseWord).getLsbD 0 = false := by decide

/-- The last read, then the `NOTIFY`; and an accepted start with no transfer under way. -/
theorem witness_BusyTracksTheTransferUnderTheContract :
    (Inv (facing greenBusy [.tbRead 71, .notify 1#1]) ∧ InStep lastRead (facing greenBusy [.tbRead 71, .notify 1#1]) ∧
      honoursContract lastRead (facing greenBusy [.tbRead 71, .notify 1#1]) ∧
      ∃ t, step (facing greenBusy [.tbRead 71, .notify 1#1]) = .next t) ∧
    Inv twoFrames ∧ InStep none twoFrames ∧ honoursContract none twoFrames ∧
      ∃ t, step twoFrames = .next t ∧ t.out.start ≠ none := by
  refine ⟨⟨{ greenBusy_inv with }, lastRead_inStep, ⟨_, rfl, by decide⟩, _, rfl⟩, ?_, ?_, trivial, _, rfl, by decide⟩
  · exact { cfg_wf := by decide, no_count := by decide, disable_clear := by decide, count_pos := by decide,
            count_le := by decide, busy_live := by decide, held_live := by decide, mem_wf := by decide,
            tb_values := by decide, busy_frame := by decide }
  · exact { busy_iff := by simp [twoFrames, facing, green, liveWith, State.reset, State.resetWith],
            count_eq := by simp }

/-- An early `NOTIFY`, before the last read, breaks the contract. -/
theorem test_early_notify_breaks_the_contract : ¬ honoursContract lastRead (facing greenBusy [.notify 1#1]) := by
  rintro h
  obtain ⟨x, hx, hu⟩ := h rfl
  cases hx
  cases hu

/-- A held `TEARDOWN` while the last element is read and the `NOTIFY` comes. -/
def lastReadHeld : State := { facing greenBusy [.tbRead 71, .notify 1#1] with held := some .teardown }

theorem lastReadHeld_contract : Contract lastRead lastReadHeld :=
  .cons (c := lastRead) (s := lastReadHeld) rfl ⟨_, rfl, by decide⟩ <|
    .cons rfl (fun _ => ⟨_, rfl, by decide⟩) <| .cons rfl trivial <| .idle (by decide) rfl rfl

theorem witness_EveryHoldEndsUnderTheContract :
    Inv lastReadHeld ∧ InStep lastRead lastReadHeld ∧ Contract lastRead lastReadHeld ∧
      lastReadHeld.held = some .teardown ∧
      ∀ k u rest, steps k lastReadHeld = .next u → u.held = some .teardown →
        u.turns ≠ .reset :: rest ∧ ∀ w, u.turns ≠ .host w :: rest := by
  have hin : InStep lastRead lastReadHeld := { busy_iff := by decide, count_eq := by intro x hx; cases hx; rfl }
  refine ⟨{ greenBusy_inv with held_live := by decide }, hin, lastReadHeld_contract, rfl, ?_⟩
  intro k u rest hk _
  have hmem : ∀ a ∈ u.turns, a ∈ lastReadHeld.turns := fun a ha => List.mem_of_mem_drop (steps_turns hk ▸ ha)
  refine ⟨fun h => ?_, fun w h => ?_⟩
  · have := hmem .reset (by simp [h])
    simp [lastReadHeld, facing] at this
  · have := hmem (.host w) (by simp [h])
    simp [lastReadHeld, facing] at this

end Sys2Proof.Tests
end

/-! PROOFS, family 00_scope: what each turn answers, one equation per case, and the two statements about the step as a
whole. -/

namespace Sys2Proof.Machine

/-! ## The step (R7, R10) -/

theorem step_of_not_wellFormed {s : State} (hwf : s.cfg.wellFormed = false) : step s = .refused .badConfiguration := by
  simp [step, hwf]

theorem step_of_turn {s : State} {t : Turn} {rest : List Turn} (hwf : s.cfg.wellFormed = true)
    (ht : s.turns = t :: rest) : step s = runTurn t { s with turns := rest } := by
  simp [step, hwf, nextTurn, ht]

theorem step_of_no_turn {s : State} (hwf : s.cfg.wellFormed = true) (ht : s.turns = []) : step s = coreTurn s := by
  simp [step, hwf, nextTurn, ht]

/-! ## The host's turn (R62) -/

theorem hostTurn_of_held {s : State} (w : CommandWord) (hh : s.held ≠ none) :
    hostTurn w s = .refused .commandWhileOutstanding :=
  if_pos (Option.isSome_iff_ne_none.mpr hh)

theorem hostTurn_of_decode_ok {s : State} {w : CommandWord} {i : Instr} (hh : s.held = none)
    (hd : decode (.command w) = .ok i) : hostTurn w s = exec i s := by
  simp [hostTurn, hh, hd]

theorem hostTurn_of_decode_error {s : State} {w : CommandWord} {e : Reject} (hh : s.held = none)
    (hd : decode (.command w) = .error e) : hostTurn w s = illegalCommand s := by
  simp [hostTurn, hh, hd]

/-! ## The CORE's own turn (R122, R137, R166) -/

theorem coreTurn_of_held {s : State} {h : Held} (hh : s.held = some h) : coreTurn s = exec h.instr s := by
  simp [coreTurn, hh]

theorem coreTurn_of_not_held {s : State} (hh : s.held = none) : coreTurn s = .next (quiet s) := by
  simp [coreTurn, hh]

/-! ## The collaborator's turn at the notify input (R70) -/

theorem notifyTurn_one (s : State) : notifyTurn 1#1 s = exec .notify s := rfl

theorem notifyTurn_zero (s : State) : notifyTurn 0#1 s = .next (quiet s) := rfl

/-! ## Every turn but a second command answers a next state (R145, R176) -/

theorem exec_answers (i : Instr) (s : State) : ∃ t, exec i s = .next t :=
  (exec_effect i s).imp fun _ ⟨h, _⟩ => h

theorem hostTurn_answers {s : State} (w : CommandWord) (hh : s.held = none) : ∃ t, hostTurn w s = .next t := by
  cases hd : decode (.command w) with
  | ok i => rw [hostTurn_of_decode_ok hh hd]; exact exec_answers i s
  | error e => rw [hostTurn_of_decode_error hh hd]; exact ⟨_, rfl⟩

theorem coreTurn_answers (s : State) : ∃ t, coreTurn s = .next t := by
  cases hh : s.held with
  | some h => rw [coreTurn_of_held hh]; exact exec_answers h.instr s
  | none => rw [coreTurn_of_not_held hh]; exact ⟨_, rfl⟩

theorem notifyTurn_answers (level : BitVec 1) (s : State) : ∃ t, notifyTurn level s = .next t := by
  obtain rfl | rfl : level = 1#1 ∨ level = 0#1 := by bv_omega
  · rw [notifyTurn_one]; exact exec_answers .notify s
  · exact ⟨_, notifyTurn_zero s⟩

theorem runTurn_answers {s : State} (t : Turn) (h : s.held = none ∨ ∀ w, t ≠ .host w) :
    ∃ u, runTurn t s = .next u := by
  cases t with
  | host w => exact hostTurn_answers w (h.resolve_right fun hw => hw w rfl)
  | core => exact coreTurn_answers s
  | notify level => exact notifyTurn_answers level s
  | tbRead j => exact ⟨_, rfl⟩
  | reset => exact ⟨_, rfl⟩

theorem step_answers {s : State} (hwf : s.cfg.wellFormed = true)
    (h : s.held = none ∨ ∀ w rest, s.turns ≠ .host w :: rest) : ∃ t, step s = .next t := by
  cases ht : s.turns with
  | nil => rw [step_of_no_turn hwf ht]; exact coreTurn_answers s
  | cons t rest =>
    rw [step_of_turn hwf ht]
    refine runTurn_answers t (h.imp_right fun hne w hw => hne w rest ?_)
    rw [ht, hw]

/-! ## The statements -/

/-- Settles O8: a turn is refused only in `hostTurn`, with a command held; `exec_effect` gives every instruction a next
state. -/
theorem onlyTwoRunsAreRefused : Obligations.OnlyTwoRunsAreRefused := by
  intro s
  refine ⟨step_of_not_wellFormed, fun hwf w rest ht hh => ?_, step_answers⟩
  rw [step_of_turn hwf ht]
  exact hostTurn_of_held w hh

/-- Settles O6: the turn is taken off the list (`step_of_turn`, `step_of_no_turn`), and each kind of turn has its
equation. -/
theorem stepRunsTheDecodedInstruction : Obligations.StepRunsTheDecodedInstruction := by
  intro s rest hwf
  refine ⟨fun w i ht hh hd => ?host, fun ht => ?notify, fun ht => ?noEvent, fun ht hh => ?coreUpdate,
    fun ht hh => ?coreTeardown, fun ht hh => ?coreWaits, fun ht hh => ?emptyUpdate, fun ht hh => ?emptyTeardown,
    fun ht hh => ?emptyWaits⟩
  case host => exact (step_of_turn hwf ht).trans (hostTurn_of_decode_ok hh hd)
  case notify => exact (step_of_turn hwf ht).trans (notifyTurn_one _)
  case noEvent => exact (step_of_turn hwf ht).trans (notifyTurn_zero _)
  case coreUpdate => exact (step_of_turn hwf ht).trans (coreTurn_of_held (s := { s with turns := rest }) hh)
  case coreTeardown => exact (step_of_turn hwf ht).trans (coreTurn_of_held (s := { s with turns := rest }) hh)
  case coreWaits => exact (step_of_turn hwf ht).trans (coreTurn_of_not_held hh)
  case emptyUpdate => exact (step_of_no_turn hwf ht).trans (coreTurn_of_held hh)
  case emptyTeardown => exact (step_of_no_turn hwf ht).trans (coreTurn_of_held hh)
  case emptyWaits => exact (step_of_no_turn hwf ht).trans (coreTurn_of_not_held hh)

end Sys2Proof.Machine

/-! PROOFS, family 10_state: the invariant kept by every operation and so by every step, what an instruction and a step
can do to the six items of state, and the statements about the items. -/

namespace Sys2Proof.Machine

/-! ## Taking the turn off the list changes no item of the CORE -/

@[simp] theorem afterFetch_cfg (s : State) : (afterFetch s).cfg = s.cfg := rfl
@[simp] theorem afterFetch_life (s : State) : (afterFetch s).life = s.life := rfl
@[simp] theorem afterFetch_count (s : State) : (afterFetch s).count = s.count := rfl
@[simp] theorem afterFetch_busy (s : State) : (afterFetch s).busy = s.busy := rfl
@[simp] theorem afterFetch_disable (s : State) : (afterFetch s).disable = s.disable := rfl
@[simp] theorem afterFetch_pb (s : State) : (afterFetch s).pb = s.pb := rfl
@[simp] theorem afterFetch_tb (s : State) : (afterFetch s).tb = s.tb := rfl
@[simp] theorem afterFetch_held (s : State) : (afterFetch s).held = s.held := rfl

/-! ## The invariant, operation by operation (R33, R42, R47) -/

theorem afterFetch_inv {s : State} (h : Inv s) : Inv (afterFetch s) := { h with }

theorem quiet_inv {s : State} (h : Inv s) : Inv (quiet s) := { h with }

theorem complete_inv (st : Status) (d : BitVec 24) (n : Option Nat) {s : State} (h : Inv s) : Inv (complete st d n s) :=
  { h with held_live := fun hh => absurd rfl hh }

theorem hold_inv (c : Held) {s : State} (hl : s.life = .live) (h : Inv s) : Inv { s with held := some c } :=
  { h with held_live := fun _ => hl }

theorem readTb_inv (j : Nat) {s : State} (h : Inv s) : Inv (readTb j s) := by
  unfold readTb
  split <;> exact { h with }

theorem takeAnswer_inv {s : State} (h : Inv s) : Inv (takeAnswer s) := by
  unfold takeAnswer
  split <;> exact { h with }

theorem clearBusy_inv {s : State} (h : Inv s) : Inv (clearBusy s) :=
  { h with
    busy_live := fun hb => nomatch hb
    busy_frame := fun hb => nomatch hb }

theorem setBusy_inv {s : State} (hl : s.life = .live) (hf : s.tb.length = tbLen s) (h : Inv s) : Inv (setBusy s) :=
  { h with
    busy_live := fun _ => hl
    busy_frame := fun _ => hf }

/-- `DISABLE` is 0 in `UNINIT` (R138), so only a live Instance may have it written. -/
theorem writeDisable_inv (f : Bool) {s : State} (hl : s.life = .live) (h : Inv s) : Inv (writeDisable f s) :=
  { h with disable_clear := fun hu => by simp [hl] at hu }

theorem pixels_inv {s : State} {pb : List Pixel} (hlen : pb.length = s.pb.length) (h : Inv s) :
    Inv { s with pb := pb } :=
  { h with mem_wf := memory_wf_congr hlen rfl rfl rfl rfl h.mem_wf }

theorem claimStorage_inv {c : Idx} {s : State} (hl : s.life = .uninit) (hpos : 1 ≤ c.toNat)
    (hle : c.toNat ≤ s.cfg.maxLeds) (h : Inv s) : Inv (claimStorage c s) :=
  have hidle : s.busy ≠ true := fun hb => by simpa [hl] using h.busy_live hb
  { cfg_wf := h.cfg_wf
    no_count := fun hn => absurd rfl hn
    disable_clear := fun hu => nomatch hu
    count_pos := fun _ => hpos
    count_le := fun _ => hle
    busy_live := fun _ => rfl
    held_live := fun _ => rfl
    mem_wf := claimStorage_memory_wf c hl h.mem_wf
    tb_values := h.tb_values
    busy_frame := fun hb => absurd hb hidle }

/-- A `TEARDOWN` that releases the storage may be the held command, so its completion belongs to the operation. -/
theorem complete_releaseStorage_inv (st : Status) (d : BitVec 24) (n : Option Nat) {s : State} (hb : s.busy = false)
    (h : Inv s) : Inv (complete st d n (releaseStorage s)) :=
  have hidle : s.busy ≠ true := by simp [hb]
  { cfg_wf := h.cfg_wf
    no_count := fun _ => rfl
    disable_clear := fun hu => nomatch hu
    count_pos := fun hl => nomatch hl
    count_le := fun hl => nomatch hl
    busy_live := fun hb' => absurd hb' hidle
    held_live := fun hh => absurd rfl hh
    mem_wf := releaseStorage_memory_wf s
    tb_values := fun _ hv => nomatch hv
    busy_frame := fun hb' => absurd hb' hidle }

/-- An encoding of `PB` is a whole frame (R43, R47): `PB` has `COUNT` pixels. -/
theorem encodeFrame_length_eq_tbLen {s : State} (h : Inv s) :
    (encodeFrame s.cfg s.pb s.disable).length = tbLen s := by
  rw [encodeFrame_length, ((memory_wf_iff s).mp h.mem_wf).1, tbLen]

theorem writeTb_encode_inv {s : State} (hl : s.life = .live) (h : Inv s) :
    Inv (writeTb (encodeFrame s.cfg s.pb s.disable) s) :=
  { h with
    mem_wf := writeTb_encode_memory_wf h.cfg_wf hl h.mem_wf
    tb_values := encodeFrame_values s.cfg s.pb s.disable
    busy_frame := fun _ => encodeFrame_length_eq_tbLen h }

/-- The encoding and the write of `BUSY` in the proceed step (R121). -/
theorem encoded_inv {s : State} (hl : s.life = .live) (h : Inv s) :
    Inv (takeAnswer (setBusy (writeTb (encodeFrame s.cfg s.pb s.disable) s))) :=
  takeAnswer_inv (setBusy_inv hl (encodeFrame_length_eq_tbLen h) (writeTb_encode_inv hl h))

theorem resetWith_inv {c : Config} (hwf : c.wellFormed = true) : Inv (State.resetWith c) :=
  { cfg_wf := hwf
    no_count := fun _ => rfl
    disable_clear := fun _ => rfl
    count_pos := fun hl => nomatch hl
    count_le := fun hl => nomatch hl
    busy_live := fun hb => nomatch hb
    held_live := fun hh => absurd rfl hh
    mem_wf := resetWith_memory_wf c
    tb_values := fun _ hv => nomatch hv
    busy_frame := fun hb => nomatch hb }

theorem resetCore_inv {s : State} (hwf : s.cfg.wellFormed = true) : Inv (resetCore s) := { resetWith_inv hwf with }

/-- Whatever instruction runs, its effect keeps the invariant. -/
theorem Effect.inv {s t : State} {i : Instr} (he : Effect s i t) (h : Inv s) : Inv t := by
  cases he with
  | report => exact complete_inv _ _ _ h
  | pixels pb _ _ hlen => exact complete_inv _ _ _ (pixels_inv hlen h)
  | claimed c _ hl hpos hle => exact complete_inv _ _ _ (claimStorage_inv hl hpos hle h)
  | released _ _ hb => exact complete_releaseStorage_inv _ _ _ hb h
  | disabled f _ hl => exact complete_inv _ _ _ (writeDisable_inv f hl h)
  | heldBack c _ hl => exact quiet_inv (hold_inv c hl h)
  | started _ hl => exact complete_inv _ _ _ (encoded_inv hl h)
  | rejected _ hl => exact complete_inv _ _ _ (clearBusy_inv (encoded_inv hl h))
  | notified => exact quiet_inv (clearBusy_inv h)

/-! ## What an instruction can do to LIFE, COUNT, BUSY and the other items (R20) -/

theorem Held.instr_ne_notify (c : Held) : c.instr ≠ .notify := by cases c <;> simp [Held.instr]

theorem effect_of_exec {i : Instr} {s t : State} (h : exec i s = .next t) : Effect s i t := by
  obtain ⟨u, hu, he⟩ := exec_effect i s
  cases hu.symm.trans h
  exact he

/-- R23, R24, R27: an instruction claims the storage, releases it, or leaves `LIFE`, `COUNT` and the number of pixels
alone. -/
theorem Effect.life_cases {s t : State} {i : Instr} (he : Effect s i t) :
    (t.life = s.life ∧ t.count = s.count ∧ t.pb.length = s.pb.length) ∨
    (s.life = .uninit ∧ t.life = .live ∧ ∃ c, i = .init c ∧ t.count = c) ∨
    (s.life = .live ∧ t.life = .dead ∧ s.busy = false ∧ i = .teardown) := by
  cases he with
  | claimed c hi hl => exact .inr (.inl ⟨hl, rfl, c, hi, rfl⟩)
  | released hi hl hb => exact .inr (.inr ⟨hl, rfl, hb, hi⟩)
  | pixels _ _ _ hlen => exact .inl ⟨rfl, rfl, hlen⟩
  | _ => exact .inl (by simp)

/-- What the proceed step of `UPDATE` leaves, whatever the answer to its start request (R121). -/
structure Proceeded (s t : State) : Prop where
  was_live : s.life = .live
  was_idle : s.busy = false
  cfg_eq : t.cfg = s.cfg
  life_eq : t.life = .live
  count_eq : t.count = s.count
  tb_eq : t.tb = encodeFrame s.cfg s.pb s.disable
  start_eq : t.out.start = some (tbLen s)
  /-- `BUSY` stays 1 where the start was accepted, and the response is then `OK`. -/
  ok_of_busy : t.busy = true → t.out.response = some 0x00000000#32

/-- R120: an instruction is a proceed step of `UPDATE`, the event `NOTIFY`, or asks for no start and leaves `BUSY`
alone. -/
theorem Effect.busy_cases {s t : State} {i : Instr} (he : Effect s i t) :
    (i = .update ∧ Proceeded s t) ∨ (i = .notify ∧ t.busy = false ∧ t.out.start = none) ∨
      (i ≠ .notify ∧ t.busy = s.busy ∧ t.out.start = none) := by
  cases he with
  | started hi hl hb =>
    exact .inl ⟨hi, hl, hb, by simp, by simpa using hl, by simp, by simp, rfl, fun _ => rfl⟩
  | rejected hi hl hb =>
    exact .inl ⟨hi, hl, hb, by simp, by simpa using hl, by simp, by simp, rfl, fun hb' => nomatch hb'⟩
  | notified hi => exact .inr (.inl ⟨hi, rfl, rfl⟩)
  | report _ _ hi => exact .inr (.inr ⟨hi, rfl, rfl⟩)
  | pixels _ hi => exact .inr (.inr ⟨fun hn => by simp [hn, isPixelInstr] at hi, rfl, rfl⟩)
  | claimed _ hi | released hi | disabled _ hi => exact .inr (.inr ⟨by simp [hi], rfl, rfl⟩)
  | heldBack c hi => exact .inr (.inr ⟨hi ▸ c.instr_ne_notify, rfl, rfl⟩)

theorem Effect.disable_eq {s t : State} {i : Instr} (he : Effect s i t) (hi : ∀ f, i ≠ .setDisable f) :
    t.disable = s.disable := by
  cases he with
  | disabled f hf => exact absurd hf (hi f)
  | _ => simp

theorem Effect.pb_eq {s t : State} {i : Instr} (he : Effect s i t) (hc : ∀ c, i ≠ .init c) (ht : i ≠ .teardown)
    (hp : isPixelInstr i ≠ true) : t.pb = s.pb := by
  cases he with
  | pixels _ hi => exact absurd hi hp
  | claimed c hi => exact absurd hi (hc c)
  | released hi => exact absurd hi ht
  | _ => simp

theorem Effect.tb_eq {s t : State} {i : Instr} (he : Effect s i t) (hu : i ≠ .update) (ht : i ≠ .teardown) :
    t.tb = s.tb := by
  cases he with
  | released hi => exact absurd hi ht
  | started hi | rejected hi => exact absurd hi hu
  | _ => rfl

/-- Only the start request of `UPDATE` uses up an answer or draws a free one (R124). -/
theorem Effect.answers_draws_eq {s t : State} {i : Instr} (he : Effect s i t) (hu : i ≠ .update) :
    t.answers = s.answers ∧ t.draws = s.draws := by
  cases he with
  | started hi | rejected hi => exact absurd hi hu
  | _ => exact ⟨rfl, rfl⟩

theorem Effect.cfg_eq {s t : State} {i : Instr} (he : Effect s i t) : t.cfg = s.cfg := by cases he <;> simp

/-- `TB_LEN` is fixed while a transfer is outstanding on a live Instance (R43, R47). -/
theorem Effect.tbLen_eq_of_busy {s t : State} {i : Instr} (he : Effect s i t) (hl : s.life = .live)
    (hb : s.busy = true) : tbLen t = tbLen s := by
  rcases he.life_cases with ⟨-, hc, -⟩ | ⟨hu, -⟩ | ⟨-, -, hidle, -⟩
  · exact tbLen_congr hc he.cfg_eq
  · simp [hl] at hu
  · simp [hb] at hidle

/-! ## The STATUS image (R29, R63) -/

theorem responseWord_getLsbD (st : Status) (d : BitVec 24) {k : Nat} (hk : k < 24) :
    (responseWord st d).getLsbD k = d.getLsbD k := by
  simp only [responseWord, BitVec.getLsbD_append, hk, if_true]

/-- A field of the response word that lies in `DATA` is that field of the data. -/
theorem responseWord_extractLsb'_data (st : Status) (d : BitVec 24) {k n : Nat} (hk : k + n ≤ 24) :
    (responseWord st d).extractLsb' k n = d.extractLsb' k n := by
  apply BitVec.eq_of_getLsbD_eq
  intro i hi
  simp [hi, responseWord_getLsbD st d (show k + i < 24 by omega)]

theorem responseWord_ok_top (d : BitVec 24) : (responseWord .ok d).extractLsb' 24 8 = 0#8 := by
  apply BitVec.eq_of_toNat_eq
  have hd := d.isLt
  have hok : (statusCode .ok).toNat = 0 := rfl
  simp only [BitVec.extractLsb'_toNat, responseWord_toNat, Nat.shiftRight_eq_div_pow, BitVec.toNat_ofNat, hok]
  omega

theorem flagBit_getLsbD_zero (f : Bool) : (flagBit f).getLsbD 0 = f := by cases f <;> rfl

/-- One bit of the image: the bit of the field it lies in. -/
theorem getLsbD_statusImage (s : State) (i : Nat) :
    (statusImage s).getLsbD i =
      if i < 1 then (flagBit s.busy).getLsbD i else if i < 3 then (lifeCode s.life).getLsbD (i - 1)
      else if i < 4 then (flagBit s.disable).getLsbD (i - 3) else if i < 8 then false else s.count.getLsbD (i - 8) := by
  have h3 : i - 1 < 2 ↔ i < 3 := by omega
  have h4 : i - 3 < 1 ↔ i < 4 := by omega
  have h8 : i - 4 < 4 ↔ i < 8 := by omega
  simp only [statusImage, BitVec.getLsbD_append, BitVec.getLsbD_zero, Nat.sub_sub]
  simp only [Nat.reduceAdd, h3, h4, h8]

theorem statusImage_busy (s : State) : (statusImage s).getLsbD 0 = s.busy := by
  rw [getLsbD_statusImage, if_pos (by omega), flagBit_getLsbD_zero]

theorem statusImage_disable (s : State) : (statusImage s).getLsbD 3 = s.disable :=
  (getLsbD_statusImage s 3).trans (flagBit_getLsbD_zero s.disable)

theorem statusImage_life (s : State) : (statusImage s).extractLsb' 1 2 = lifeCode s.life := by
  apply BitVec.eq_of_getLsbD_eq
  intro i hi
  simp only [BitVec.getLsbD_extractLsb', hi, decide_true, Bool.true_and, getLsbD_statusImage]
  rw [if_neg (by omega), if_pos (by omega), Nat.add_sub_cancel_left]

theorem statusImage_reserved (s : State) : (statusImage s).extractLsb' 4 4 = 0#4 := by
  apply BitVec.eq_of_getLsbD_eq
  intro i hi
  simp only [BitVec.getLsbD_extractLsb', hi, decide_true, Bool.true_and, getLsbD_statusImage]
  rw [if_neg (by omega), if_neg (by omega), if_neg (by omega), if_pos (by omega), BitVec.getLsbD_zero]

theorem statusImage_count (s : State) : (statusImage s).extractLsb' 8 16 = s.count := by
  apply BitVec.eq_of_getLsbD_eq
  intro i hi
  simp only [BitVec.getLsbD_extractLsb', hi, decide_true, Bool.true_and, getLsbD_statusImage]
  rw [if_neg (by omega), if_neg (by omega), if_neg (by omega), if_neg (by omega), Nat.add_sub_cancel_left]

/-! ## Which instruction a step runs -/

/-- The step from `s` runs the instruction `i`: a command (`runs`), or the event `NOTIFY`. -/
def stepRuns (i : Instr) (s : State) : Prop := runs i s ∨ i = .notify ∧ ∃ rest, s.turns = .notify 1#1 :: rest

/-- No command word is the event (R65, R70). -/
theorem decode_command_ne_notify (w : CommandWord) : decode (.command w) ≠ .ok .notify := by
  show decodeCommand w ≠ _
  unfold decodeCommand
  split <;> simp

theorem runs_ne_notify {i : Instr} {s : State} (h : runs i s) : i ≠ .notify := by
  rintro rfl
  rcases h with ⟨w, _, _, hd⟩ | ⟨_, c, _, hc⟩
  · exact decode_command_ne_notify w hd
  · exact c.instr_ne_notify hc

theorem turn_of_stepRuns_notify {s : State} (h : stepRuns .notify s) : ∃ rest, s.turns = .notify 1#1 :: rest :=
  h.elim (fun hr => absurd rfl (runs_ne_notify hr)) And.right

theorem runs_of_stepRuns {i : Instr} {s : State} (h : stepRuns i s) (hi : i ≠ .notify) : runs i s :=
  h.resolve_right fun hn => hi hn.1

theorem host_of_stepRuns_init {c : Idx} {s : State} (h : stepRuns (.init c) s) :
    ∃ w rest, s.turns = .host w :: rest ∧ decode (.command w) = .ok (.init c) :=
  (runs_of_stepRuns h (by simp)).resolve_right fun ⟨_, k, _, hk⟩ => by cases k <;> cases hk

theorem held_or_host_of_stepRuns_teardown {s : State} (h : stepRuns .teardown s) :
    s.held = some .teardown ∨ ∃ w rest, s.turns = .host w :: rest ∧ decode (.command w) = .ok .teardown := by
  rcases runs_of_stepRuns h (by simp) with hw | ⟨_, k, hk, hi⟩
  · exact .inr hw
  · cases k with
    | teardown => exact .inl hk
    | update => cases hi

/-- No item of the CORE differs between `s` and `t`. -/
structure SameItems (s t : State) : Prop where
  cfg_eq : t.cfg = s.cfg
  life_eq : t.life = s.life
  count_eq : t.count = s.count
  busy_eq : t.busy = s.busy
  disable_eq : t.disable = s.disable
  pb_eq : t.pb = s.pb
  tb_eq : t.tb = s.tb
  held_eq : t.held = s.held

/-- A step runs an instruction, resets the CORE, or changes no item of it: a reserved opcode, a wait, an idle notify
level, a TB read. -/
theorem step_cases {s t : State} (h : step s = .next t) :
    (∃ i, stepRuns i s ∧ Effect (afterFetch s) i t) ∨
    ((∃ rest, s.turns = .reset :: rest) ∧ t = resetCore (afterFetch s)) ∨
    (SameItems s t ∧ t.out.start = none ∧ ¬ endsBusy s) := by
  cases (step_effect h).2 with
  | word p i _ hp hd he =>
    refine .inl ⟨i, ?_, he⟩
    rcases hp with ⟨w, rest, rfl, ht, -⟩ | ⟨rest, rfl, ht⟩
    · exact .inl (.inl ⟨w, rest, ht, hd⟩)
    · exact .inr ⟨by cases hd; rfl, rest, ht⟩
  | retry c _ hh ht he => exact .inl ⟨c.instr, .inl (.inr ⟨ht, c, hh, rfl⟩), he⟩
  | reset rest ht => exact .inr (.inl ⟨⟨rest, ht⟩, rfl⟩)
  | illegal w rest e ht hh =>
    exact .inr (.inr ⟨⟨rfl, rfl, rfl, rfl, rfl, rfl, rfl, hh.symm⟩, rfl, by simp [endsBusy, ht]⟩)
  | idle ht =>
    refine .inr (.inr ⟨⟨rfl, rfl, rfl, rfl, rfl, rfl, rfl, rfl⟩, rfl, ?_⟩)
    rcases ht with ⟨-, ht | ⟨rest, ht⟩⟩ | ⟨level, rest, ht, rfl⟩ <;> simp [endsBusy, ht]
  | read j rest ht => exact .inr (.inr ⟨by constructor <;> simp, by simp, by simp [endsBusy, ht]⟩)

/-! ## The collaborator beside the machine (R25, R172) -/

/-- Agreement in one equation: the count of the followed transfer is what `BUSY` and `TB_LEN` say. -/
theorem inStep_iff (c : Option Transfer) (s : State) :
    InStep c s ↔ c.map Transfer.n = if s.busy then some (tbLen s) else none := by
  constructor
  · intro ⟨hb, hn⟩
    cases c with
    | none => simpa using hb
    | some x => simp [hb, hn x rfl]
  · intro h
    cases c <;> cases hb : s.busy <;> simp [hb] at h
    · exact ⟨by simp [hb], by simp⟩
    · exact ⟨by simp [hb], by simpa using h⟩

theorem InStep.none_of_idle {c : Option Transfer} {s : State} (h : InStep c s) (hb : s.busy = false) : c = none := by
  simpa [hb] using h.busy_iff

theorem collaboratorAfter_of_start {c : Option Transfer} {s t : State} {n : Nat} (hs : t.out.start = some n) :
    collaboratorAfter c s t = if t.busy then some { n := n, unread := List.range n } else c := by
  simp [collaboratorAfter, hs]

/-- With no start, no `NOTIFY` and no reset, the transfer under way stays under way, with its count. -/
theorem collaboratorAfter_map_n {c : Option Transfer} {s t : State} (hs : t.out.start = none) (he : ¬ endsBusy s) :
    (collaboratorAfter c s t).map Transfer.n = c.map Transfer.n := by
  simp only [collaboratorAfter, hs]
  split
  · rename_i level rest ht
    rw [if_neg]
    rintro rfl
    exact he (.inl ⟨rest, ht⟩)
  · cases c <;> rfl
  · rename_i rest ht
    exact absurd (.inr ⟨rest, ht⟩) he
  · rfl

/-- A collaborator that keeps its contract notifies only to complete its transfer. -/
theorem collaboratorAfter_of_notify {c : Option Transfer} {s t : State} {rest : List Turn}
    (ht : s.turns = .notify 1#1 :: rest) (hs : t.out.start = none) (hc : honoursContract c s) :
    collaboratorAfter c s t = none := by
  obtain ⟨x, rfl, hx⟩ : ∃ x, c = some x ∧ x.unread = [] := by simpa [honoursContract, ht] using hc
  simp [collaboratorAfter, hs, ht, hx]

theorem collaboratorAfter_of_reset {c : Option Transfer} {s t : State} {rest : List Turn}
    (ht : s.turns = .reset :: rest) (hs : t.out.start = none) : collaboratorAfter c s t = none := by
  simp [collaboratorAfter, hs, ht]

theorem inStep_none {s : State} (hb : s.busy = false) : InStep none s := (inStep_iff none s).mpr (by simp [hb])

/-- A proceed step finds no transfer under way, and begins one exactly if it leaves `BUSY` at 1. -/
theorem Proceeded.inStep {c : Option Transfer} {s t : State} (hp : Proceeded (afterFetch s) t) (h : InStep c s) :
    InStep (collaboratorAfter c s t) t := by
  have hn : tbLen t = tbLen s := tbLen_congr hp.count_eq hp.cfg_eq
  rw [inStep_iff, collaboratorAfter_of_start hp.start_eq, h.none_of_idle hp.was_idle, hn]
  cases t.busy <;> rfl

/-- Where no start is made and nothing ends the transfer, agreement is kept if `BUSY` is, and `TB_LEN` while it is 1. -/
theorem inStep_of_busy_eq {c : Option Transfer} {s t : State} (h : InStep c s) (hs : t.out.start = none)
    (he : ¬ endsBusy s) (hb : t.busy = s.busy) (hn : s.busy = true → tbLen t = tbLen s) :
    InStep (collaboratorAfter c s t) t := by
  rw [inStep_iff, collaboratorAfter_map_n hs he, (inStep_iff c s).mp h, hb]
  cases hsb : s.busy with
  | false => rfl
  | true => simp [hn hsb]

theorem runs_not_endsBusy {i : Instr} {s : State} (h : runs i s) : ¬ endsBusy s := by
  rcases h with ⟨w, rest, ht, -⟩ | ⟨ht | ⟨rest, ht⟩, -⟩ <;> simp [endsBusy, ht]

/-! ## The statements -/

/-- Settles O54: an instruction by `Effect.inv`, and every other turn by the rule of its operation. -/
theorem everyStepKeepsTheInvariant : Obligations.EveryStepKeepsTheInvariant := by
  intro s t h hstep
  have hf : Inv (afterFetch s) := afterFetch_inv h
  cases (step_effect hstep).2 with
  | word _ _ _ _ _ he => exact he.inv hf
  | retry _ _ _ _ he => exact he.inv hf
  | illegal => exact complete_inv _ _ _ hf
  | idle => exact quiet_inv hf
  | read j => exact readTb_inv j hf
  | reset => exact resetCore_inv hf.cfg_wf

/-- Settles O33: `BUSY` rises only in a proceed step and falls only by the event or a reset (`Effect.busy_cases`). -/
theorem busyRisesOnlyAtAnAcceptedStart : Obligations.BusyRisesOnlyAtAnAcceptedStart := by
  intro s t hstep
  rcases step_cases hstep with ⟨i, hi, he⟩ | ⟨hr, rfl⟩ | ⟨hsame, -⟩
  · rcases he.busy_cases with ⟨-, hp⟩ | ⟨rfl, hb, -⟩ | ⟨-, hb, -⟩
    · exact ⟨fun _ hb => ⟨hp.was_live, hp.life_eq, hp.tb_eq, hp.ok_of_busy hb, hp.start_eq⟩,
        fun hb => absurd (hb.symm.trans hp.was_idle) (by simp)⟩
    · exact ⟨fun _ ht => by simp [hb] at ht, fun _ _ => .inl (turn_of_stepRuns_notify hi)⟩
    · exact ⟨fun hs ht => by simp [hb, hs] at ht, fun hs ht => by simp [hb, hs] at ht⟩
  · exact ⟨fun _ ht => absurd ht (by simp), fun _ _ => .inr hr⟩
  · exact ⟨fun hs ht => by simp [hsame.busy_eq, hs] at ht, fun hs ht => by simp [hsame.busy_eq, hs] at ht⟩

/-- Settles O44: every named field of the response lies in `DATA`, which is the image. -/
theorem statusReadsTheControlState : Obligations.StatusReadsTheControlState := by
  intro s
  refine ⟨responseWord .ok (statusImage s), rfl, ?_⟩
  rw [responseWord_getLsbD _ _ (by omega), responseWord_getLsbD _ _ (by omega),
    responseWord_extractLsb'_data _ _ (by omega), responseWord_extractLsb'_data _ _ (by omega),
    responseWord_extractLsb'_data _ _ (by omega), statusImage_life]
  exact ⟨statusImage_busy s, fun hl => by rw [hl]; rfl, fun hl => by rw [hl]; rfl, fun hl => by rw [hl]; rfl,
    statusImage_disable s, statusImage_reserved s, statusImage_count s, responseWord_ok_top _⟩

/-- Settles O45, by the three ways an instruction can treat `LIFE` (`Effect.life_cases`). -/
theorem lifeChangesOnlyByInitTeardownReset : Obligations.LifeChangesOnlyByInitTeardownReset := by
  intro s t hstep hne
  rcases step_cases hstep with ⟨i, hi, he⟩ | ⟨hr, rfl⟩ | ⟨hsame, -⟩
  · rcases he.life_cases with ⟨hl, -⟩ | ⟨hu, hl, c, rfl, hc⟩ | ⟨hl, hd, hb, rfl⟩
    · exact absurd hl hne
    · obtain ⟨w, rest, ht, hw⟩ := host_of_stepRuns_init hi
      exact .inl ⟨hu, hl, w, rest, c, ht, hw, hc⟩
    · exact .inr (.inl ⟨hl, hd, hb, held_or_host_of_stepRuns_teardown hi⟩)
  · exact .inr (.inr ⟨rfl, hr⟩)
  · exact absurd hsame.life_eq hne

/-- Settles O46: `COUNT` and the number of pixels change only with `LIFE`. -/
theorem ledCountIsFixedWhileLive : Obligations.LedCountIsFixedWhileLive := by
  intro s t hstep hs ht
  rcases step_cases hstep with ⟨i, -, he⟩ | ⟨-, rfl⟩ | ⟨hsame, -⟩
  · rcases he.life_cases with ⟨-, hc, hlen⟩ | ⟨hu, -⟩ | ⟨-, hd, -⟩
    · exact ⟨hc, hlen⟩
    · exact absurd (hs.symm.trans hu) (by simp)
    · exact absurd (ht.symm.trans hd) (by simp)
  · exact nomatch ht
  · exact ⟨hsame.count_eq, congrArg _ hsame.pb_eq⟩

/-- Settles O47: each item is left alone by every instruction that is not one of its writers. -/
theorem onlyTheNamedInstructionsWriteEachItem : Obligations.OnlyTheNamedInstructionsWriteEachItem := by
  intro i s t hexec
  have he := effect_of_exec hexec
  have hlc : (t.life = s.life ∧ t.count = s.count) ∨ (∃ c, i = .init c) ∨ i = .teardown := by
    rcases he.life_cases with ⟨hl, hc, -⟩ | ⟨-, -, c, hi, -⟩ | ⟨-, -, -, hi⟩
    · exact .inl ⟨hl, hc⟩
    · exact .inr (.inl ⟨c, hi⟩)
    · exact .inr (.inr hi)
  refine ⟨fun h => hlc.resolve_left fun hk => h hk.1, fun h => hlc.resolve_left fun hk => h hk.2, fun h => ?busy,
    fun h => ?disable, fun h => ?pb, fun h => ?tb, fun h => ?answers, he.cfg_eq, effect_turns he⟩
  case busy =>
    rcases he.busy_cases with ⟨hi, -⟩ | ⟨hi, -⟩ | ⟨-, hb, -⟩
    · exact .inl hi
    · exact .inr hi
    · exact absurd hb h
  case disable =>
    by_contra! hi
    exact h (he.disable_eq hi)
  case pb =>
    by_contra! hi
    exact h (he.pb_eq hi.1 hi.2.1 hi.2.2)
  case tb =>
    by_contra! hi
    exact h (he.tb_eq hi.1 hi.2)
  case answers =>
    by_contra hi
    obtain ⟨ha, hd⟩ := he.answers_draws_eq hi
    exact h.elim (· ha) (· hd)

/-- Settles O56: a start finds `BUSY` at 0, so no transfer; a `NOTIFY` under the contract and a reset end the transfer
with `BUSY`; every other step keeps both. -/
theorem busyTracksTheTransferUnderTheContract : Obligations.BusyTracksTheTransferUnderTheContract := by
  intro s t c h hin hcon hstep
  rcases step_cases hstep with ⟨i, hi, he⟩ | ⟨⟨rest, ht⟩, rfl⟩ | ⟨hsame, hs, hnot⟩
  · rcases he.busy_cases with ⟨-, hp⟩ | ⟨rfl, hb, hs⟩ | ⟨hne, hb, hs⟩
    · exact ⟨hp.inStep hin, fun _ => hin.none_of_idle hp.was_idle⟩
    · obtain ⟨rest, ht⟩ := turn_of_stepRuns_notify hi
      rw [collaboratorAfter_of_notify ht hs hcon]
      exact ⟨inStep_none hb, fun hne => absurd hs hne⟩
    · have hn : s.busy = true → tbLen t = tbLen s := fun hsb => he.tbLen_eq_of_busy (h.busy_live hsb) hsb
      exact ⟨inStep_of_busy_eq hin hs (runs_not_endsBusy (runs_of_stepRuns hi hne)) hb hn, fun hst => absurd hs hst⟩
  · rw [collaboratorAfter_of_reset ht rfl]
    exact ⟨inStep_none rfl, fun hne => absurd rfl hne⟩
  · exact ⟨inStep_of_busy_eq hin hs hnot hsame.busy_eq fun _ => tbLen_congr hsame.count_eq hsame.cfg_eq,
      fun hne => absurd hs hne⟩

/-- Settles O52: a reset turn is `resetCore`. -/
theorem resetLeavesTheResetValues : Obligations.ResetLeavesTheResetValues := by
  refine ⟨fun c => ⟨rfl, rfl, rfl, rfl, rfl, rfl, rfl⟩, rfl, fun s rest hwf ht => ?_⟩
  rw [step_of_turn hwf ht]
  rfl

/-- Settles O53: the reference configuration is one that keeps R7. -/
theorem resetMeetsTheInvariant : Obligations.ResetMeetsTheInvariant :=
  ⟨fun _ hwf => resetWith_inv hwf, resetWith_inv (by decide)⟩

end Sys2Proof.Machine

/-! PROOFS, family 20_memory: the address map of an encoded frame, what a TB read returns, who writes TB, and the pixel
commands' independence of BUSY. -/

namespace Sys2Proof.Machine

/-! ## The address map of a frame (R44, R111) -/

theorem symbol_eq (cfg : Config) (bit : Bool) : symbol cfg bit = if bit then cfg.t1Count else cfg.t0Count := rfl

theorem encodePixel_getElem? (cfg : Config) (px : Pixel) {m : Nat} (hm : m < 24) :
    (encodePixel cfg px)[m]? = some (symbol cfg ((packWire px).getLsbD (23 - m))) := by
  simp [encodePixel, hm]

/-! The three channels on the wire, most significant bit first: green, red, blue. -/

theorem packWire_getLsbD_green (px : Pixel) {k : Nat} (hk : k < 8) :
    (packWire px).getLsbD (23 - k) = px.g.getLsbD (7 - k) := by
  have hlow : ¬ 23 - k < 8 := by omega
  have hmid : ¬ 23 - k - 8 < 8 := by omega
  rw [packWire, BitVec.getLsbD_append, if_neg hlow, BitVec.getLsbD_append, if_neg hmid]
  congr 1
  omega

theorem packWire_getLsbD_red (px : Pixel) {k : Nat} (hk : k < 8) :
    (packWire px).getLsbD (23 - (8 + k)) = px.r.getLsbD (7 - k) := by
  have hlow : ¬ 23 - (8 + k) < 8 := by omega
  have hmid : 23 - (8 + k) - 8 < 8 := by omega
  rw [packWire, BitVec.getLsbD_append, if_neg hlow, BitVec.getLsbD_append, if_pos hmid]
  congr 1
  omega

theorem packWire_getLsbD_blue (px : Pixel) {k : Nat} (hk : k < 8) :
    (packWire px).getLsbD (23 - (16 + k)) = px.b.getLsbD (7 - k) := by
  have hlow : 23 - (16 + k) < 8 := by omega
  rw [packWire, BitVec.getLsbD_append, if_pos hlow]
  congr 1
  omega

theorem flatMap_encodePixel_length (cfg : Config) (pb : List Pixel) :
    (pb.flatMap (encodePixel cfg)).length = 24 * pb.length := by
  simp [List.length_flatMap, encodePixel_length, Nat.mul_comm]

/-- Pixel `p` fills the elements from `24p` on: every pixel before it has filled 24. -/
theorem flatMap_encodePixel_getElem? (cfg : Config) {pb : List Pixel} {p m : Nat} {px : Pixel} (hp : pb[p]? = some px)
    (hm : m < 24) : (pb.flatMap (encodePixel cfg))[24 * p + m]? = (encodePixel cfg px)[m]? := by
  induction pb generalizing p with
  | nil => simp at hp
  | cons q qs ih =>
    rw [List.flatMap_cons]
    cases p with
    | zero =>
      obtain rfl : q = px := by simpa using hp
      rw [List.getElem?_append_left (by rw [encodePixel_length]; omega), Nat.mul_zero, Nat.zero_add]
    | succ p =>
      rw [List.getElem?_append_right (by rw [encodePixel_length]; omega), encodePixel_length,
        show 24 * (p + 1) + m - 24 = 24 * p + m by omega]
      exact ih (by simpa using hp)

theorem encodeFrame_enabled (cfg : Config) (pb : List Pixel) :
    encodeFrame cfg pb false = pb.flatMap (encodePixel cfg) ++ resetGap cfg := rfl

theorem encodeFrame_disabled (cfg : Config) (pb : List Pixel) :
    encodeFrame cfg pb true = List.replicate (24 * pb.length + cfg.resetSlots) 0 := rfl

/-- Element `24p + m` of a frame that is not disabled is the symbol of bit `23 - m` of pixel `p` as it goes on the wire. -/
theorem encodeFrame_getElem?_pixel (cfg : Config) {pb : List Pixel} {p m : Nat} {px : Pixel} (hp : pb[p]? = some px)
    (hm : m < 24) :
    (encodeFrame cfg pb false)[24 * p + m]? = some (symbol cfg ((packWire px).getLsbD (23 - m))) := by
  obtain ⟨hlt, -⟩ := List.getElem?_eq_some_iff.mp hp
  have hin : 24 * p + m < (pb.flatMap (encodePixel cfg)).length := by rw [flatMap_encodePixel_length]; omega
  rw [encodeFrame_enabled, List.getElem?_append_left hin, flatMap_encodePixel_getElem? cfg hp hm,
    encodePixel_getElem? cfg px hm]

theorem encodeFrame_getElem?_gap (cfg : Config) (pb : List Pixel) {q : Nat} (hq : q < cfg.resetSlots) :
    (encodeFrame cfg pb false)[24 * pb.length + q]? = some 0 := by
  rw [encodeFrame_enabled, ← flatMap_encodePixel_length cfg, List.getElem?_append_right (Nat.le_add_right ..),
    Nat.add_sub_cancel_left, resetGap, List.getElem?_replicate_of_lt hq]
  rfl

/-- Settles O27: a channel is eight of the 24 wire bits of its pixel, and the frame ends with the gap. -/
theorem encodedFrameHasTheAddressMap : Obligations.EncodedFrameHasTheAddressMap := by
  intro cfg pb sym
  refine ⟨fun p k px hp hk => ⟨?green, ?red, ?blue⟩, fun q => encodeFrame_getElem?_gap cfg pb, fun j hj => ?disabled,
    fun dis => ?pastTheEnd⟩
  case green => rw [encodeFrame_getElem?_pixel cfg hp (by omega), packWire_getLsbD_green px hk, symbol_eq]
  case red =>
    rw [Nat.add_assoc, encodeFrame_getElem?_pixel cfg hp (by omega), packWire_getLsbD_red px hk, symbol_eq]
  case blue =>
    rw [Nat.add_assoc, encodeFrame_getElem?_pixel cfg hp (by omega), packWire_getLsbD_blue px hk, symbol_eq]
  case disabled => rw [encodeFrame_disabled, List.getElem?_replicate_of_lt hj]
  case pastTheEnd => exact List.getElem?_eq_none (encodeFrame_length cfg pb dis).le

/-! ## The TB read port (R51) -/

theorem step_of_tbRead {s : State} {j : Nat} {rest : List Turn} (hwf : s.cfg.wellFormed = true)
    (ht : s.turns = .tbRead j :: rest) : step s = .next (readTb j { s with turns := rest }) :=
  step_of_turn hwf ht

theorem tbElement?_eq_some {s : State} {j v : Nat} (hl : s.life = .live) (hj : j < tbLen s) (hv : s.tb[j]? = some v) :
    tbElement? s j = some v := by
  rw [tbElement?, if_pos ⟨hl, hj⟩, hv]

theorem tbElement?_eq_none {s : State} {j : Nat} (h : s.life ≠ .live ∨ tbLen s ≤ j ∨ s.tb[j]? = none) :
    tbElement? s j = none := by
  rw [tbElement?, ite_eq_right_iff]
  rintro ⟨hl, hj⟩
  rcases h with hn | hge | hn
  · exact absurd hl hn
  · exact absurd hj (by omega)
  · exact hn

theorem readTb_of_some {s : State} {j v : Nat} (h : tbElement? s j = some v) :
    readTb j s = { s with out := { response := none, start := none, readData := some v } } := by
  simp only [readTb, h]

theorem readTb_of_none {s : State} {j : Nat} (h : tbElement? s j = none) :
    readTb j s = { s with draws := s.draws + 1,
                          out := { response := none, start := none, readData := some (freeTimerCount s) } } := by
  simp only [readTb, h]

theorem freeTimerCount_lt (s : State) : freeTimerCount s < 2 ^ s.cfg.tcW := Nat.mod_lt _ (Nat.two_pow_pos _)

/-- Settles O39: the read is `readTb`, and the element R51 fixes is there or not. -/
theorem tbReadReturnsTheEncodedElement : Obligations.TbReadReturnsTheEncodedElement := by
  intro s j rest hwf ht
  rw [step_of_tbRead hwf ht]
  refine ⟨fun v hl hj hv => ?_, fun h => ⟨_, freeTimerCount_lt s, ?_⟩⟩
  · rw [readTb_of_some (s := { s with turns := rest }) (tbElement?_eq_some hl hj hv)]
  · rw [readTb_of_none (s := { s with turns := rest }) (tbElement?_eq_none h)]
    rfl

/-- R47: while a transfer is outstanding every element of the frame has a value. -/
theorem Inv.tb_getElem?_of_busy {s : State} {j : Nat} (h : Inv s) (hb : s.busy = true) (hj : j < tbLen s) :
    ∃ v, s.tb[j]? = some v :=
  ⟨_, List.getElem?_eq_getElem ((h.busy_frame hb).symm ▸ hj)⟩

/-- A read that keeps the contract falls in a transfer and below `TB_LEN` (R172). -/
theorem honoursContract_tbRead {s : State} {c : Option Transfer} {j : Nat} {rest : List Turn} (hin : InStep c s)
    (hc : honoursContract c s) (ht : s.turns = .tbRead j :: rest) : s.busy = true ∧ j < tbLen s := by
  obtain ⟨x, rfl, hj⟩ : ∃ x, c = some x ∧ j < x.n := by simpa [honoursContract, ht] using hc
  exact ⟨hin.busy_iff.mpr (by simp), hin.count_eq x rfl ▸ hj⟩

/-- Settles O40: the contract and the invariant put the read in the first case of R51. -/
theorem honestReadsSeeTheFrame : Obligations.HonestReadsSeeTheFrame := by
  intro s c j rest h hin hc ht
  obtain ⟨hb, hj⟩ := honoursContract_tbRead hin hc ht
  obtain ⟨v, hv⟩ := h.tb_getElem?_of_busy hb hj
  obtain ⟨hread, -⟩ := tbReadReturnsTheEncodedElement s j rest h.cfg_wf ht
  exact ⟨_, v, hread v (h.busy_live hb) hj hv, hv, rfl, rfl, rfl⟩

/-! ## Who writes TB (R45, R47, R123) -/

/-- An instruction leaves `TB` alone, releases it, or is a proceed step of `UPDATE`. -/
theorem Effect.tb_cases {s t : State} {i : Instr} (he : Effect s i t) :
    t.tb = s.tb ∨ (i = .teardown ∧ s.life = .live ∧ s.busy = false ∧ t.life = .dead ∧ t.tb = []) ∨
      (i = .update ∧ Proceeded s t) := by
  rcases he.busy_cases with hp | ⟨rfl, -⟩ | ⟨-, -, hs⟩
  · exact .inr (.inr hp)
  · exact .inl (he.tb_eq (by simp) (by simp))
  · cases he with
    | released hi hl hb => exact .inr (.inl ⟨hi, hl, hb, rfl, rfl⟩)
    | started | rejected => cases hs
    | _ => exact .inl rfl

/-- A step leaves `TB` alone, is a reset, or runs the one command that releases it or the one that writes it. -/
theorem step_tb_cases {s t : State} (h : step s = .next t) :
    t.tb = s.tb ∨ ((∃ rest, s.turns = .reset :: rest) ∧ t.tb = []) ∨
      (runs .teardown s ∧ s.life = .live ∧ s.busy = false ∧ t.life = .dead ∧ t.tb = []) ∨
      (runs .update s ∧ Proceeded (afterFetch s) t) := by
  rcases step_cases h with ⟨i, hi, he⟩ | ⟨hr, rfl⟩ | ⟨hsame, -⟩
  · rcases he.tb_cases with htb | ⟨rfl, hreleased⟩ | ⟨rfl, hp⟩
    · exact .inl htb
    · exact .inr (.inr (.inl ⟨runs_of_stepRuns hi (by simp), hreleased⟩))
    · exact .inr (.inr (.inr ⟨runs_of_stepRuns hi (by simp), hp⟩))
  · exact .inr (.inl ⟨hr, rfl⟩)
  · exact .inl hsame.tb_eq

/-- Settles O32: of the steps that change `TB` (`step_tb_cases`) only reset is possible with `BUSY` at 1. -/
theorem tbIsImmutableDuringATransfer : Obligations.TbIsImmutableDuringATransfer := by
  intro s t hstep
  rcases step_tb_cases hstep with htb | ⟨hr, htb⟩ | ⟨hrun, hl, hb, hdead, htb⟩ | ⟨hrun, hp⟩
  · exact ⟨fun _ _ => htb, fun hne => absurd htb hne⟩
  · exact ⟨fun _ hnr => hr.elim fun rest ht => absurd ht (hnr rest), fun _ => .inl ⟨htb, .inl hr⟩⟩
  · exact ⟨fun hbusy => by simp [hb] at hbusy, fun _ => .inl ⟨htb, .inr ⟨hrun, hl, hb, hdead⟩⟩⟩
  · have hb : s.busy = false := hp.was_idle
    exact ⟨fun hbusy => by simp [hb] at hbusy, fun _ => .inr ⟨hrun, hp.was_live, hb, hp.tb_eq, hp.start_eq⟩⟩

/-! ## Pixel commands and BUSY (R48, R90) -/

/-- The outcome `r` with `BUSY` at `b` in its next state. -/
def withBusy (b : Bool) : Result → Result
  | .next t => .next { t with busy := b }
  | .fault e => .fault e
  | .refused e => .refused e

/-! An operation ignores `BUSY` when running it with another value of `BUSY` gives the same outcome but for that value. -/

theorem succeed_ignores_busy (d : BitVec 24) (s : State) (b : Bool) :
    succeed d { s with busy := b } = withBusy b (succeed d s) := rfl

theorem fail_ignores_busy (e : Status) (s : State) (b : Bool) :
    fail e { s with busy := b } = withBusy b (fail e s) := rfl

theorem ite_ignores_busy {c : Prop} [Decidable c] {b : Bool} {x x' y y' : Result} (hx : x' = withBusy b x)
    (hy : y' = withBusy b y) : (if c then x' else y') = withBusy b (if c then x else y) := by
  rw [hx, hy, apply_ite (withBusy b)]

theorem whenLive_ignores_busy {s : State} {b : Bool} {body body' : Result} (h : body' = withBusy b body) :
    whenLive { s with busy := b } body' = withBusy b (whenLive s body) :=
  ite_ignores_busy h (fail_ignores_busy _ s b)

theorem setPixel_ignores_busy (i : Idx) (p : Pixel) (s : State) (b : Bool) :
    setPixel i p { s with busy := b } = withBusy b (setPixel i p s) :=
  whenLive_ignores_busy (ite_ignores_busy rfl rfl)

theorem setPixels_ignores_busy (p : Pixel) (s : State) (b : Bool) :
    setPixels p { s with busy := b } = withBusy b (setPixels p s) :=
  whenLive_ignores_busy rfl

theorem exec_pixel_ignores_busy {i : Instr} (hi : isPixelInstr i = true) (s : State) (b : Bool) :
    exec i { s with busy := b } = withBusy b (exec i s) := by
  cases i with
  | setOne x p => exact setPixel_ignores_busy x p s b
  | setOneHsv x c => exact setPixel_ignores_busy x (hsv2rgb c) s b
  | setAll p => exact setPixels_ignores_busy p s b
  | setAllHsv c => exact setPixels_ignores_busy (hsv2rgb c) s b
  | clear => exact setPixels_ignores_busy Pixel.black s b
  | setSpan low high p => exact whenLive_ignores_busy (ite_ignores_busy (ite_ignores_busy rfl rfl) rfl)
  | shl n | shr n => exact whenLive_ignores_busy rfl
  | rol n | ror n => exact whenLive_ignores_busy (ite_ignores_busy rfl rfl)
  | _ => cases hi

/-- A pixel command writes `PB`, in its length, and nothing else. -/
theorem Effect.pixel_frame {s t : State} {i : Instr} (he : Effect s i t) (hi : isPixelInstr i = true) :
    t = { s with pb := t.pb, held := none, out := t.out } ∧ t.pb.length = s.pb.length := by
  cases he with
  | report => exact ⟨rfl, rfl⟩
  | pixels pb _ _ hlen => exact ⟨rfl, hlen⟩
  | heldBack h hh => subst hh; cases h <;> cases hi
  | claimed _ h | released h | disabled _ h | started h | rejected h | notified h => subst h; cases hi

/-- Settles O18: the outcome by `exec_pixel_ignores_busy`, the frame by `Effect.pixel_frame`. -/
theorem pixelCommandsIgnoreBusyAndLeaveTb : Obligations.PixelCommandsIgnoreBusyAndLeaveTb := by
  intro i s b hi
  obtain ⟨t, ht, he⟩ := exec_effect i s
  obtain ⟨hframe, hlen⟩ := he.pixel_frame hi
  refine ⟨t, ht, ?_, by rw [hframe], hframe, hlen⟩
  rw [exec_pixel_ignores_busy hi, ht]
  rfl

end Sys2Proof.Machine

/-! PROOFS, family 30_encoding: the opcode and the operands of an instruction as the fields of its word, the words the
assembler writes, and the layout of the responses. -/

namespace Sys2Proof.Machine

/-! ## The opcode map and the operand forms (R61, R65) -/

/-- The opcode of a command (R65); the event has none. -/
def opcodeOf : Instr → Option (BitVec 8)
  | .init _ => some 0x01#8
  | .teardown => some 0x02#8
  | .setDisable _ => some 0x03#8
  | .status => some 0x04#8
  | .setOne .. => some 0x10#8
  | .setOneHsv .. => some 0x11#8
  | .setAll _ => some 0x12#8
  | .setAllHsv _ => some 0x13#8
  | .setSpan .. => some 0x14#8
  | .clear => some 0x15#8
  | .shl _ => some 0x20#8
  | .shr _ => some 0x21#8
  | .rol _ => some 0x22#8
  | .ror _ => some 0x23#8
  | .hsv2rgb _ => some 0x30#8
  | .update => some 0x40#8
  | .notify => none

/-- The instruction of the same mnemonic as the given one, with its operands read from `w` by its form (R61). -/
def withOperandsOf (w : CommandWord) : Instr → Instr
  | .init _ => .init (fieldA w)
  | .setDisable _ => .setDisable (flagOperand w)
  | .setOne .. => .setOne (fieldA w) (pixelOperand w)
  | .setOneHsv .. => .setOneHsv (fieldA w) (hsvOperand w)
  | .setAll _ => .setAll (pixelOperand w)
  | .setAllHsv _ => .setAllHsv (hsvOperand w)
  | .setSpan .. => .setSpan (fieldA w) (fieldB w) (pixelOperand w)
  | .shl _ => .shl (fieldA w)
  | .shr _ => .shr (fieldA w)
  | .rol _ => .rol (fieldA w)
  | .ror _ => .ror (fieldA w)
  | .hsv2rgb _ => .hsv2rgb (hsvOperand w)
  | i => i

/-- What the decoder does, said once: a word is the instruction `i` when it has the opcode and the operands of `i`. -/
theorem decode_command_eq_ok_iff {w : CommandWord} {i : Instr} :
    decode (.command w) = .ok i ↔ opcodeOf i = some (fieldOp w) ∧ withOperandsOf w i = i := by
  show decodeCommand w = .ok i ↔ _
  constructor
  · intro h
    unfold decodeCommand at h
    split at h <;> cases h
    all_goals
      rename_i hop
      exact ⟨congrArg some hop.symm, rfl⟩
  · rintro ⟨hop, hi⟩
    rw [← hi]
    cases i with
    | notify => cases hop
    | _ => simp only [decodeCommand, ← Option.some.inj hop]; rfl

/-- R66: the opcode alone says whether a word is a command. -/
theorem decode_command_cases (w : CommandWord) :
    (fieldOp w ∈ definedOpcodes ∧ ∃ i, decode (.command w) = .ok i) ∨
    (fieldOp w ∉ definedOpcodes ∧ decode (.command w) = .error (.reservedOpcode (fieldOp w))) := by
  simp only [decode]
  unfold decodeCommand
  split
  case h_17 => exact .inr ⟨by simp_all [definedOpcodes], rfl⟩
  all_goals
    rename_i hop
    exact .inl ⟨by rw [hop]; decide, _, rfl⟩

theorem decode_command_of_reserved {w : CommandWord} (h : fieldOp w ∉ definedOpcodes) :
    decode (.command w) = .error (.reservedOpcode (fieldOp w)) :=
  ((decode_command_cases w).resolve_left fun hd => h hd.1).2

theorem decode_encode (i : Instr) : decode (encode i) = .ok i := by
  cases i with
  | notify => rfl
  | setDisable f => exact decode_command_eq_ok_iff.mpr (by cases f <;> simp [opcodeOf, withOperandsOf])
  | _ => exact decode_command_eq_ok_iff.mpr (by simp [opcodeOf, withOperandsOf, pixelOperand, hsvOperand])

/-! ## The fields a form uses (R67) -/

/-- A field of 8 bits that the form uses whole: the mask is a literal, which `BitVec.and_allOnes` does not match. -/
@[simp] theorem and_ones8 (x : BitVec 8) : x &&& 0xFF#8 = x := BitVec.and_allOnes

/-- The same for a field of 16 bits. -/
@[simp] theorem and_ones16 (x : BitVec 16) : x &&& 0xFFFF#16 = x := BitVec.and_allOnes

theorem fieldOp_masked (w : CommandWord) (i : Instr) : fieldOp (w &&& usedMask i) = fieldOp w := by
  cases i <;> simp [fieldOp, usedMask, BitVec.extractLsb'_and]

/-- Every operand lies in the bits `usedMask` names. -/
theorem withOperandsOf_masked (w : CommandWord) (i : Instr) :
    withOperandsOf (w &&& usedMask i) i = withOperandsOf w i := by
  cases i <;> simp [withOperandsOf, usedMask, pixelOperand, hsvOperand, flagOperand, fieldA, fieldB, fieldC2, fieldC1,
    fieldC0, BitVec.extractLsb'_and]

/-- The flag is the lowest bit of `C2`, and form F uses no other bit of that field. -/
theorem fieldC2_and_one (w : CommandWord) : fieldC2 w &&& 1#8 = if flagOperand w then 1 else 0 := by
  have hbit : (fieldC2 w).getLsbD 0 = flagOperand w := by simp [fieldC2, flagOperand]
  rw [BitVec.and_one_eq_setWidth_ofBool_getLsbD, hbit]
  cases flagOperand w <;> rfl

/-- Every bit `usedMask` names is the opcode's or an operand's. -/
theorem encode_withOperandsOf {w : CommandWord} {i : Instr} (hop : opcodeOf i = some (fieldOp w)) :
    encode (withOperandsOf w i) = .command (w &&& usedMask i) := by
  rw [← commandWord_fields (w &&& usedMask i), fieldOp_masked]
  cases i with
  | notify => cases hop
  | setDisable f =>
    rw [withOperandsOf, encode, ← fieldC2_and_one]
    simp [← Option.some.inj hop, usedMask, fieldA, fieldB, fieldC2, fieldC1, fieldC0, BitVec.extractLsb'_and]
  | _ =>
    simp [withOperandsOf, encode, ← Option.some.inj hop, usedMask, pixelOperand, hsvOperand, fieldA, fieldB, fieldC2,
      fieldC1, fieldC0, BitVec.extractLsb'_and]

/-- R67: decoding looks at no bit outside `usedMask`. -/
theorem decode_congr_of_masked {w w' : CommandWord} {i : Instr} (h : decode (.command w) = .ok i)
    (hm : w &&& usedMask i = w' &&& usedMask i) : decode (.command w') = .ok i := by
  obtain ⟨hop, hi⟩ := decode_command_eq_ok_iff.mp h
  refine decode_command_eq_ok_iff.mpr ⟨?_, ?_⟩
  · rw [hop, ← fieldOp_masked w i, hm, fieldOp_masked]
  · rw [← withOperandsOf_masked, ← hm, withOperandsOf_masked, hi]

/-- A host's turn looks at its word only through the decoder. -/
theorem step_host_congr {w w' : CommandWord} (h : decode (.command w) = decode (.command w')) (s : State)
    (rest : List Turn) : step { s with turns := .host w :: rest } = step { s with turns := .host w' :: rest } := by
  simp only [step, nextTurn, runTurn, hostTurn, h]

/-! ## The words of the assembler (R71) -/

theorem assemble_of_wellFormed {l : AsmLine} (h : l.wellFormed = true) :
    l.assemble = some (l.instrs.map encode) := if_pos h

theorem assemble_of_not_wellFormed {l : AsmLine} (h : l.wellFormed = false) : l.assemble = none :=
  if_neg (ne_true_of_eq_false h)

/-- A line that stands for one command, whose word is written out with numbers that fit their fields. -/
theorem assemblesTo_of_encode {l : AsmLine} {i : Instr} {op a b c2 c1 c0 : Nat} (hwf : l.wellFormed = true)
    (hl : l.instrs = [i])
    (he : encode i = .command (commandWord (BitVec.ofNat 8 op) (BitVec.ofNat 16 a) (BitVec.ofNat 16 b)
      (BitVec.ofNat 8 c2) (BitVec.ofNat 8 c1) (BitVec.ofNat 8 c0)))
    (hfit : op < 256 ∧ a < 65536 ∧ b < 65536 ∧ c2 < 256 ∧ c1 < 256 ∧ c0 < 256) :
    assemblesTo l op a b c2 c1 c0 := by
  obtain ⟨hop, ha, hb, hc2, hc1, hc0⟩ := hfit
  refine ⟨_, by rw [assemble_of_wellFormed hwf, hl, List.map_singleton, he], ?_⟩
  simp [Nat.mod_eq_of_lt, *]

/-! ## The responses (R62, R63, R64) -/

theorem ne_notify_of_isPixelInstr {i : Instr} (hi : isPixelInstr i = true) : i ≠ .notify := by
  rintro rfl
  cases hi

/-- The status codes but `IllegalCommand` are at most 5. -/
theorem statusCode_le_five {st : Status} (h : st ≠ .illegalCommand) : (statusCode st).toNat ≤ 5 := by
  cases st with
  | illegalCommand => exact absurd rfl h
  | _ => decide

/-- R63: the response of an instruction is a response word; no instruction reports `IllegalCommand`, and only `STATUS` and
`HSV2RGB` return data. -/
theorem Effect.response_eq {s t : State} {i : Instr} {w : ResponseWord} (he : Effect s i t)
    (hw : t.out.response = some w) :
    ∃ st data, w = responseWord st data ∧ st ≠ .illegalCommand ∧
      (i ≠ .status → (∀ c, i ≠ .hsv2rgb c) → data = 0) := by
  cases he with
  | report st data _ hst hcode hok =>
    cases hw
    refine ⟨st, data, rfl, hcode.2, fun hs hh => hst fun h => ?_⟩
    rcases hok h with hi | ⟨c, hi⟩
    · exact hs hi
    · exact hh c hi
  | heldBack | notified => cases hw
  | _ => cases hw; exact ⟨_, 0, rfl, by simp, fun _ _ => rfl⟩

/-! ## The statements -/

/-- Settles O2: an encoded word has the opcode and the operands of its instruction. -/
theorem decodeOfEncodeGivesTheInstruction : Obligations.DecodeOfEncodeGivesTheInstruction := decode_encode

/-- Settles O3: the two cases of `decode_command_cases` exclude each other. -/
theorem rejectedWordsAreThoseWithAReservedOpcode : Obligations.RejectedWordsAreThoseWithAReservedOpcode :=
  fun w => ⟨fun h => ((decode_command_cases w).resolve_right fun hr => hr.1 h).2, decode_command_of_reserved⟩

/-- Settles O4: `usedMask` keeps the opcode and every operand, and nothing else. -/
theorem ignoredFieldsMakeNoDifference : Obligations.IgnoredFieldsMakeNoDifference := by
  intro w w' i h hm
  obtain ⟨hop, hi⟩ := decode_command_eq_ok_iff.mp h
  have h' := decode_congr_of_masked h hm
  exact ⟨h', (congrArg encode hi).symm.trans (encode_withOperandsOf hop),
    fun s => step_host_congr (h.trans h'.symm) s s.turns⟩

/-- Settles O5: each line by `assemblesTo_of_encode`, and decoding by `decode_encode`. -/
theorem assembledLinesDecodeToTheirInstructions : Obligations.AssembledLinesDecodeToTheirInstructions := by
  refine ⟨fun l hwf => ⟨_, assemble_of_wellFormed hwf, ?decodes⟩, fun l => assemble_of_not_wellFormed,
    fun n hn => ?formI, fun f hf => ?formF, ?formN, fun i r g b hi hr hg hb => ?pixel, fun i h s v hi hh hs hv => ?hsv,
    rfl, by decide, by decide⟩
  case decodes => simp [decode_encode]
  case formI =>
    have hwf : fits 16 n = true := decide_eq_true hn
    exact ⟨assemblesTo_of_encode hwf rfl rfl (by omega), assemblesTo_of_encode hwf rfl rfl (by omega),
      assemblesTo_of_encode hwf rfl rfl (by omega), assemblesTo_of_encode hwf rfl rfl (by omega),
      assemblesTo_of_encode hwf rfl rfl (by omega)⟩
  case formF =>
    obtain rfl | rfl : f = 0 ∨ f = 1 := by omega
    · exact assemblesTo_of_encode rfl rfl rfl (by omega)
    · exact assemblesTo_of_encode rfl rfl rfl (by omega)
  case formN =>
    exact ⟨assemblesTo_of_encode rfl rfl rfl (by omega), assemblesTo_of_encode rfl rfl rfl (by omega),
      assemblesTo_of_encode rfl rfl rfl (by omega), assemblesTo_of_encode rfl rfl rfl (by omega)⟩
  case pixel =>
    exact ⟨assemblesTo_of_encode (by simp [AsmLine.wellFormed, fits, *]) rfl rfl (by omega),
      assemblesTo_of_encode (by simp [AsmLine.wellFormed, fits, *]) rfl rfl (by omega), fun high hhigh =>
      assemblesTo_of_encode (by simp [AsmLine.wellFormed, fits, *]) rfl rfl (by omega)⟩
  case hsv =>
    exact ⟨assemblesTo_of_encode (by simp [AsmLine.wellFormed, fits, *]) rfl rfl (by omega),
      assemblesTo_of_encode (by simp [AsmLine.wellFormed, fits, *]) rfl rfl (by omega),
      assemblesTo_of_encode (by simp [AsmLine.wellFormed, fits, *]) rfl rfl (by omega)⟩

/-- Settles O7: the word is rejected, and `illegalCommand` changes nothing. -/
theorem reservedOpcodeAnswersIllegalCommand : Obligations.ReservedOpcodeAnswersIllegalCommand := by
  intro s w rest hwf hh ht hop
  rw [step_of_turn hwf ht]
  exact hostTurn_of_decode_error hh (decode_command_of_reserved hop)

/-- Settles O9, effect by effect: all but the hold and the event complete. -/
theorem everyCommandAnswersOnceOrIsHeld : Obligations.EveryCommandAnswersOnceOrIsHeld := by
  intro i s
  obtain ⟨t, ht, he⟩ := exec_effect i s
  refine ⟨t, ht, ?_⟩
  cases he with
  | report _ _ hi => exact .inl ⟨hi, rfl, rfl, _, rfl⟩
  | pixels _ hi => exact .inl ⟨ne_notify_of_isPixelInstr hi, rfl, rfl, _, rfl⟩
  | claimed _ hi | released hi | disabled _ hi | started hi | rejected hi =>
    exact .inl ⟨by simp [hi], rfl, rfl, _, rfl⟩
  | heldBack h hi hl hb =>
    cases h with
    | update => exact .inr (.inl ⟨hi, hl, hb, rfl, rfl⟩)
    | teardown => exact .inr (.inr (.inl ⟨hi, hl, hb, rfl, rfl⟩))
  | notified hi => exact .inr (.inr (.inr ⟨hi, rfl, rfl⟩))

/-- Settles O50: `Effect.response_eq` gives the response word, whose fields are known; `STATUS` and `HSV2RGB` answer `OK` by
their definition. -/
theorem responseWordsHaveTheLayout : Obligations.ResponseWordsHaveTheLayout := by
  intro i s t w hexec hw
  obtain ⟨st, data, rfl, hst, hdata⟩ := (effect_of_exec hexec).response_eq hw
  refine ⟨responseWord_reserved st data, ?_, ?_, ?_⟩
  · rw [responseStatus_responseWord]; exact statusCode_le_five hst
  · rintro (rfl | ⟨c, rfl⟩)
    all_goals
      cases hexec
      rw [← Option.some.inj hw, responseStatus_responseWord]
      rfl
  · rw [responseWord_data]
    exact hdata

/-- Settles O1, by running the decoder on each word. -/
theorem wordsOfTheSpecDecode : Obligations.WordsOfTheSpecDecode := by
  unfold Obligations.WordsOfTheSpecDecode
  decide

/-- Settles O55: bit 0 of the STATUS image is `BUSY`. -/
theorem waitIdleRepeatsStatusWhileBusy : Obligations.WaitIdleRepeatsStatusWhileBusy := by
  refine ⟨fun r => ⟨fun h => if_pos h, fun h => if_neg (ne_true_of_eq_false h)⟩, fun s => ⟨_, rfl, ?_⟩⟩
  rw [waitIdleAgain, responseWord_getLsbD _ _ (by omega), statusImage_busy]

end Sys2Proof.Machine

/-! PROOFS, family 40_color: the stages of `hsv2rgb` one channel at a time, the hue wheel sector by sector, the 16-bit
datapath operation by operation, and the statements about colour. -/

namespace Sys2Proof.Machine

/-! ## Three channels at once -/

/-- The pixel whose channels are the values of `f` at the channels of `x`. -/
def Rgb.pixel {α : Type} (f : α → Channel) (x : Rgb α) : Pixel := ⟨f x.r, f x.g, f x.b⟩

/-- Every channel has the property `P`. -/
def Rgb.All {α : Type} (P : α → Prop) (x : Rgb α) : Prop := P x.r ∧ P x.g ∧ P x.b

/-- The natural numbers the channels of the 16-bit datapath stand for. -/
def Rgb.toNat (x : Rgb (BitVec 16)) : Rgb Nat := ⟨x.r.toNat, x.g.toNat, x.b.toNat⟩

theorem Rgb.pixel_congr {α : Type} {f g : α → Channel} {P : α → Prop} {x : Rgb α} (hx : x.All P)
    (h : ∀ a, P a → f a = g a) : x.pixel f = x.pixel g := by
  obtain ⟨hr, hg, hb⟩ := hx
  simp [Rgb.pixel, h _ hr, h _ hg, h _ hb]

/-! ## Stage 1, the clamp (R80) -/

theorem clampHue_of_ge {c : Hsv} (h : 359 ≤ c.h.toNat) : clampHue c = 359 := Nat.min_eq_right h
theorem clampSat_of_ge {c : Hsv} (h : 100 ≤ c.s.toNat) : clampSat c = 100 := Nat.min_eq_right h
theorem clampVal_of_ge {c : Hsv} (h : 100 ≤ c.v.toNat) : clampVal c = 100 := Nat.min_eq_right h

/-- R85: `hsv2rgb` looks at its operands through the clamp only. -/
theorem hsv2rgb_congr {c c' : Hsv} (hh : clampHue c = clampHue c') (hs : clampSat c = clampSat c')
    (hv : clampVal c = clampVal c') : hsv2rgb c = hsv2rgb c' := by
  simp only [hsv2rgb, hh, hs, hv]

theorem hsv2rgb_of_hue_ge {c : Hsv} (h : 359 ≤ c.h.toNat) : hsv2rgb c = hsv2rgb { c with h := 359 } :=
  hsv2rgb_congr (clampHue_of_ge h) rfl rfl

theorem hsv2rgb_of_sat_ge {c : Hsv} (h : 100 ≤ c.s.toNat) : hsv2rgb c = hsv2rgb { c with s := 100 } :=
  hsv2rgb_congr rfl (clampSat_of_ge h) rfl

theorem hsv2rgb_of_val_ge {c : Hsv} (h : 100 ≤ c.v.toNat) : hsv2rgb c = hsv2rgb { c with v := 100 } :=
  hsv2rgb_congr rfl rfl (clampVal_of_ge h)

/-! ## Stage 2, the hue wheel (R84) -/

/-- The row of the sector table for sector `k`, with the ramp at `t`. -/
def wheel (k t : Nat) : Rgb Nat :=
  match k with
  | 0 => ⟨255, t, 0⟩
  | 1 => ⟨255 - t, 255, 0⟩
  | 2 => ⟨0, 255, t⟩
  | 3 => ⟨0, 255 - t, 255⟩
  | 4 => ⟨t, 0, 255⟩
  | _ => ⟨255, 0, 255 - t⟩

theorem hueStage_eq_wheel (h1 : Nat) : hueStage h1 = wheel (h1 / 60) (425 * (h1 - 60 * (h1 / 60)) / 100) := rfl

theorem hueStage_sector {k d : Nat} (hd : d < 60) : hueStage (60 * k + d) = wheel k (425 * d / 100) := by
  have hk : (60 * k + d) / 60 = k := by omega
  rw [hueStage_eq_wheel, hk, Nat.add_sub_cancel_left]

theorem wheel_le {k t : Nat} (ht : t ≤ 255) : (wheel k t).All (· ≤ 255) := by
  unfold wheel Rgb.All
  split <;> dsimp only <;> omega

theorem hueStage_le (h1 : Nat) : (hueStage h1).All (· ≤ 255) := wheel_le (by omega)

/-! ## Stages 3 and 4, one channel (R81, R85) -/

theorem blendChannel_le {s1 c0 : Nat} (hc : c0 ≤ 255) : blendChannel s1 c0 ≤ 255 := by
  have hadd : (255 - c0) * (100 - s1) / 100 ≤ 255 - c0 :=
    Nat.div_le_of_le_mul (by rw [Nat.mul_comm]; exact Nat.mul_le_mul_right _ (Nat.sub_le ..))
  unfold blendChannel
  omega

theorem scaleChannel_le {v1 c1 : Nat} (hv : v1 ≤ 100) (hc : c1 ≤ 255) : scaleChannel v1 c1 ≤ 255 :=
  Nat.div_le_of_le_mul (by rw [Nat.mul_comm]; exact Nat.mul_le_mul hv hc)

theorem blendChannel_full (c0 : Nat) : blendChannel 100 c0 = c0 := by simp [blendChannel]

theorem blendChannel_zero {c0 : Nat} (hc : c0 ≤ 255) : blendChannel 0 c0 = 255 := by
  unfold blendChannel
  omega

theorem scaleChannel_full (c1 : Nat) : scaleChannel 100 c1 = c1 := by simp [scaleChannel]

theorem scaleChannel_zero (c1 : Nat) : scaleChannel 0 c1 = 0 := by simp [scaleChannel]

/-- A channel of `hsv2rgb c`, from its value after stage 2. -/
def channelOf (c : Hsv) (c0 : Nat) : Channel :=
  BitVec.ofNat 8 (scaleChannel (clampVal c) (blendChannel (clampSat c) c0))

theorem hsv2rgb_eq (c : Hsv) : hsv2rgb c = (hueStage (clampHue c)).pixel (channelOf c) := rfl

/-- No channel is cut off at 8 bits (R83). -/
theorem channelOf_toNat (c : Hsv) {c0 : Nat} (hc : c0 ≤ 255) :
    (channelOf c c0).toNat = scaleChannel (clampVal c) (blendChannel (clampSat c) c0) := by
  have hle : scaleChannel (clampVal c) (blendChannel (clampSat c) c0) ≤ 255 :=
    scaleChannel_le (Nat.min_le_right ..) (blendChannel_le hc)
  exact Nat.mod_eq_of_lt (by omega)

theorem channelOf_full {c : Hsv} (hs : 100 ≤ c.s.toNat) (hv : 100 ≤ c.v.toNat) :
    channelOf c = BitVec.ofNat 8 := by
  funext c0
  rw [channelOf, clampSat_of_ge hs, clampVal_of_ge hv, blendChannel_full, scaleChannel_full]

/-- R81: stages 3 and 4 start from the channel's value at full saturation and value. -/
theorem channelOf_toNat_from_full (c : Hsv) {c0 : Nat} (hc : c0 ≤ 255) : (channelOf c c0).toNat =
    scaleChannel (clampVal c) (blendChannel (clampSat c) (channelOf { c with s := 100, v := 100 } c0).toNat) := by
  have hfull : (channelOf { c with s := 100, v := 100 } c0).toNat = c0 := by
    rw [channelOf_full le_rfl le_rfl]
    exact Nat.mod_eq_of_lt (by omega)
  rw [hfull, channelOf_toNat c hc]

theorem channelOf_of_val_zero {c : Hsv} (hv : c.v = 0) (c0 : Nat) : channelOf c c0 = 0 := by
  have hval : clampVal c = 0 := by simp [clampVal, hv]
  rw [channelOf, hval, scaleChannel_zero]
  rfl

theorem channelOf_of_sat_zero {c : Hsv} (hs : c.s = 0) {c0 : Nat} (hc : c0 ≤ 255) :
    channelOf c c0 = BitVec.ofNat 8 (scaleChannel (clampVal c) 255) := by
  have hsat : clampSat c = 0 := by simp [clampSat, hs]
  rw [channelOf, hsat, blendChannel_zero hc]

/-! ## The hue wheel at full saturation and value -/

theorem hsv2rgb_of_sector {c : Hsv} (hs : 100 ≤ c.s.toNat) (hv : 100 ≤ c.v.toNat) {k d : Nat} (hk : k ≤ 5)
    (hd : d < 60) (hh : c.h.toNat = 60 * k + d) : hsv2rgb c = (wheel k (425 * d / 100)).pixel (BitVec.ofNat 8) := by
  have hclamp : clampHue c = 60 * k + d := by unfold clampHue; omega
  rw [hsv2rgb_eq, hclamp, hueStage_sector hd, channelOf_full hs hv]

/-- The falling ramp does not go below zero (R83). -/
theorem ofNat_falling {t : Nat} (ht : t ≤ 255) : BitVec.ofNat 8 (255 - t) = 255 - BitVec.ofNat 8 t :=
  (BitVec.ofNat_sub_ofNat_of_le 255 t (by omega) ht).symm

/-! ## The 16-bit datapath (R83): no operation wraps -/

theorem min16_toNat (a b : BitVec 16) : (min16 a b).toNat = min a.toNat b.toNat := by
  simp only [min16, BitVec.ult, decide_eq_true_eq]
  split <;> omega

theorem toNat_mul16 {x y : BitVec 16} (hx : x.toNat ≤ 255) (hy : y.toNat ≤ 100) :
    (x * y).toNat = x.toNat * y.toNat :=
  BitVec.toNat_mul_of_lt ((Nat.mul_le_mul hx hy).trans_lt (by decide))

theorem blend16_toNat {s1 c0 : BitVec 16} (hs : s1.toNat ≤ 100) (hc : c0.toNat ≤ 255) :
    (c0 + (255#16 - c0) * (100#16 - s1) / 100#16).toNat = blendChannel s1.toNat c0.toNat := by
  have hroom : (255#16 - c0).toNat = 255 - c0.toNat := by bv_omega
  have hwhite : (100#16 - s1).toNat = 100 - s1.toNat := by bv_omega
  have hadd : ((255#16 - c0) * (100#16 - s1) / 100#16).toNat = (255 - c0.toNat) * (100 - s1.toNat) / 100 := by
    rw [BitVec.toNat_udiv, toNat_mul16 (by omega) (by omega), hroom, hwhite]
    rfl
  have hle : blendChannel s1.toNat c0.toNat ≤ 255 := blendChannel_le hc
  unfold blendChannel at hle ⊢
  rw [← hadd] at hle ⊢
  exact BitVec.toNat_add_of_lt (by omega)

theorem channel16_eq_channelOf {c : Hsv} {s1 v1 c0 : BitVec 16} (hs : s1.toNat = clampSat c)
    (hv : v1.toNat = clampVal c) (hc : c0.toNat ≤ 255) : channel16 s1 v1 c0 = channelOf c c0.toNat := by
  have hs' : s1.toNat ≤ 100 := hs ▸ Nat.min_le_right ..
  have hv' : v1.toNat ≤ 100 := hv ▸ Nat.min_le_right ..
  have hblend := blend16_toNat hs' hc
  have hle : blendChannel s1.toNat c0.toNat ≤ 255 := blendChannel_le hc
  rw [channelOf, ← hs, ← hv, scaleChannel, ← hblend, ← toNat_mul16 (by omega) hv']
  exact (BitVec.ofNat_toNat ..).symm

theorem sector16_toNat (h1 : BitVec 16) : (h1 / 60#16).toNat = h1.toNat / 60 := BitVec.toNat_udiv

theorem degree16_toNat (h1 : BitVec 16) :
    (h1 - 60#16 * (h1 / 60#16)).toNat = h1.toNat - 60 * (h1.toNat / 60) := by
  have hsector := sector16_toNat h1
  rw [← hsector]
  generalize h1 / 60#16 = k at hsector
  bv_omega

theorem ramp16_toNat {d : BitVec 16} (hd : d.toNat < 60) : (425#16 * d / 100#16).toNat = 425 * d.toNat / 100 := by
  have hmul : (425#16 * d).toNat = 425 * d.toNat := BitVec.toNat_mul_of_lt (by rw [BitVec.toNat_ofNat]; omega)
  rw [BitVec.toNat_udiv, hmul]
  rfl

theorem hueStage16_toNat {h1 : BitVec 16} (h : h1.toNat ≤ 359) : (hueStage16 h1).toNat = hueStage h1.toNat := by
  have hsector := sector16_toNat h1
  have hdegree := degree16_toNat h1
  have hramp := ramp16_toNat (d := h1 - 60#16 * (h1 / 60#16)) (by omega)
  rw [hueStage_eq_wheel, ← hdegree, ← hramp, ← hsector]
  unfold hueStage16
  dsimp only
  generalize 425#16 * (h1 - 60#16 * (h1 / 60#16)) / 100#16 = t at hramp ⊢
  generalize h1 / 60#16 = k at hsector ⊢
  have hfall : (255#16 - t).toNat = 255 - t.toNat := by bv_omega
  obtain rfl | rfl | rfl | rfl | rfl | rfl :
      k = 0#16 ∨ k = 1#16 ∨ k = 2#16 ∨ k = 3#16 ∨ k = 4#16 ∨ k = 5#16 := by bv_omega
  all_goals simp [Rgb.toNat, wheel, hfall]

/-! ## The answer of `HSV2RGB` -/

/-- R82: `DATA[23:16] = r`, `DATA[15:8] = g`, `DATA[7:0] = b`. -/
theorem packRgb_fields (p : Pixel) : (packRgb p).extractLsb' 16 8 = p.r ∧ (packRgb p).extractLsb' 8 8 = p.g ∧
    (packRgb p).extractLsb' 0 8 = p.b := by
  unfold packRgb
  refine ⟨?_, ?_, ?_⟩
  · rw [BitVec.extractLsb'_append_eq_of_le (by omega), BitVec.extractLsb'_append_eq_of_le (by omega)]
    exact BitVec.extractLsb'_eq_self
  · rw [BitVec.extractLsb'_append_eq_of_le (by omega), BitVec.extractLsb'_append_eq_of_add_le (by omega)]
    exact BitVec.extractLsb'_eq_self
  · rw [BitVec.extractLsb'_append_eq_of_add_le (by omega)]
    exact BitVec.extractLsb'_eq_self

/-! ## The statements -/

/-- Settles O10: each sector is a row of `wheel`; a hue of 359 or more acts as degree 59 of sector 5. -/
theorem hueWheelAtFullSaturationAndValue : Obligations.HueWheelAtFullSaturationAndValue := by
  intro c d hs hv hd
  have hfall := ofNat_falling (show 425 * d / 100 ≤ 255 by omega)
  refine ⟨fun h => ?red, fun h => ?yellow, fun h => ?green, fun h => ?cyan, fun h => ?blue, fun h => ?magenta,
    fun h => ?clamped⟩
  case red => exact hsv2rgb_of_sector (k := 0) hs hv (by omega) hd (by omega)
  case yellow => rw [← hfall]; exact hsv2rgb_of_sector (k := 1) hs hv (by omega) hd h
  case green => exact hsv2rgb_of_sector (k := 2) hs hv (by omega) hd h
  case cyan => rw [← hfall]; exact hsv2rgb_of_sector (k := 3) hs hv (by omega) hd h
  case blue => exact hsv2rgb_of_sector (k := 4) hs hv (by omega) hd h
  case magenta => rw [← hfall]; exact hsv2rgb_of_sector (k := 5) hs hv (by omega) hd h
  case clamped =>
    rw [hsv2rgb_of_hue_ge h]
    exact hsv2rgb_of_sector (c := { c with h := 359 }) (k := 5) (d := 59) hs hv (by omega) (by omega) rfl

/-- Settles O11: at full saturation and value a channel is its value after stage 2, and no channel is cut off. -/
theorem saturationBlendsThenValueScales : Obligations.SaturationBlendsThenValueScales := by
  intro c
  obtain ⟨hr, hg, hb⟩ := hueStage_le (clampHue c)
  exact ⟨channelOf_toNat_from_full c hr, channelOf_toNat_from_full c hg, channelOf_toNat_from_full c hb⟩

/-- Settles O13: the hue stage by `hueStage16_toNat`, each channel by `channel16_eq_channelOf`. -/
theorem sixteenBitDatapathIsExact : Obligations.SixteenBitDatapathIsExact := by
  intro c
  have hh : (min16 c.h 359#16).toNat = clampHue c := min16_toNat ..
  have hs : (min16 (c.s.setWidth 16) 100#16).toNat = clampSat c := by
    rw [min16_toNat, BitVec.toNat_setWidth_of_le (by omega)]; rfl
  have hv : (min16 (c.v.setWidth 16) 100#16).toNat = clampVal c := by
    rw [min16_toNat, BitVec.toNat_setWidth_of_le (by omega)]; rfl
  have hstage : (hueStage16 (min16 c.h 359#16)).toNat = hueStage (clampHue c) := by
    rw [hueStage16_toNat (hh ▸ Nat.min_le_right ..), hh]
  have hle : (hueStage16 (min16 c.h 359#16)).toNat.All (· ≤ 255) := hstage ▸ hueStage_le _
  calc hsv2rgb16 c
    _ = (hueStage16 (min16 c.h 359#16)).pixel (channel16 (min16 (c.s.setWidth 16) 100#16)
          (min16 (c.v.setWidth 16) 100#16)) := rfl
    _ = (hueStage16 (min16 c.h 359#16)).pixel (fun x => channelOf c x.toNat) :=
      Rgb.pixel_congr (P := fun x : BitVec 16 => x.toNat ≤ 255) hle fun _ => channel16_eq_channelOf hs hv
    _ = (hueStage16 (min16 c.h 359#16)).toNat.pixel (channelOf c) := rfl
    _ = hsv2rgb c := by rw [hstage, hsv2rgb_eq]

/-- Settles O14: the response word carries the packed pixel (`packRgb_fields`); at value 0 every channel scales to 0, at
saturation 0 every channel blends to 255. -/
theorem hsv2rgbAnswersThePackedPixelInEveryState : Obligations.Hsv2rgbAnswersThePackedPixelInEveryState := by
  refine ⟨fun c s => ?answer, fun c hv => ?black, fun c hs => ?grey⟩
  case answer =>
    obtain ⟨hr, hg, hb⟩ := packRgb_fields (hsv2rgb c)
    refine ⟨responseWord .ok (packRgb (hsv2rgb c)), rfl, responseWord_ok_top _, ?_⟩
    rw [responseWord_extractLsb'_data _ _ (by omega), responseWord_extractLsb'_data _ _ (by omega),
      responseWord_extractLsb'_data _ _ (by omega)]
    exact ⟨hr, hg, hb⟩
  case black => exact Rgb.pixel_congr (hueStage_le (clampHue c)) fun x _ => channelOf_of_val_zero hv x
  case grey => exact Rgb.pixel_congr (hueStage_le (clampHue c)) fun _ => channelOf_of_sat_zero hs

/-- Settles O12: the clamp takes such an operand to the bound. -/
theorem hsvOperandsSaturate : Obligations.HsvOperandsSaturate :=
  fun _ => ⟨hsv2rgb_of_hue_ge, hsv2rgb_of_sat_ge, hsv2rgb_of_val_ge⟩

end Sys2Proof.Machine

/-! PROOFS, family 41_pixel_ops: the response words of the setters, what each setter does case by case, and the three
statements about them. -/

namespace Sys2Proof.Machine

/-! ## The responses of a setter, written out (R63, R64) -/

theorem fail_notInitialized (s : State) : fail .notInitialized s = .next (answered 0x30000000#32 s) := rfl

theorem fail_indexOutOfRange (s : State) : fail .indexOutOfRange s = .next (answered 0x10000000#32 s) := rfl

theorem fail_invalidRange (s : State) : fail .invalidRange s = .next (answered 0x20000000#32 s) := rfl

/-- A command that only rewrites the pixels answers `OK` and leaves every other item as it was. -/
theorem succeed_rewritePixels (f : Nat → Pixel → Pixel) (s : State) :
    succeed 0 (rewritePixels f s) = .next { answered 0x00000000#32 s with pb := s.pb.mapIdx f } := rfl

theorem succeed_writePixel (i : Nat) (p : Pixel) (s : State) :
    succeed 0 (writePixel i p s) = .next { answered 0x00000000#32 s with pb := s.pb.set i p } := rfl

theorem whenLive_eq_notInitialized {s : State} (hl : s.life ≠ .live) (body : Result) :
    whenLive s body = .next (answered 0x30000000#32 s) := by
  rw [whenLive_of_not_live hl, fail_notInitialized]

/-- In the canonical form `PB` lists exactly the `COUNT` pixels that exist (R27). -/
theorem pb_length_of_memory_wf {s : State} (h : Memory.wf s = true) : s.pb.length = s.count.toNat := by
  obtain ⟨hpb, -⟩ := (memory_wf_iff s).mp h
  exact hpb

/-! ## One pixel (R91, R92) -/

/-- `SET_ONE_HSV` is `SET_ONE` with the converted pixel. -/
theorem exec_eq_setPixel {ins : Instr} {i : Idx} {p : Pixel}
    (h : ins = .setOne i p ∨ ∃ c, ins = .setOneHsv i c ∧ p = hsv2rgb c) (s : State) :
    exec ins s = setPixel i p s := by
  rcases h with rfl | ⟨c, rfl, rfl⟩
  · rfl
  · rfl

theorem setPixel_of_out_of_range {s : State} {i : Idx} (p : Pixel) (hl : s.life = .live)
    (hi : s.count.toNat ≤ i.toNat) : setPixel i p s = .next (answered 0x10000000#32 s) := by
  rw [setPixel, whenLive_of_live hl, if_neg (Nat.not_lt.mpr hi), fail_indexOutOfRange]

theorem setPixel_of_in_range {s : State} {i : Idx} (p : Pixel) (hl : s.life = .live) (hi : i.toNat < s.count.toNat) :
    setPixel i p s = .next { answered 0x00000000#32 s with pb := s.pb.set i.toNat p } := by
  rw [setPixel, whenLive_of_live hl, if_pos hi, succeed_writePixel]

/-! ## Every pixel (R93, R94, R96) -/

/-- `SET_ALL_HSV` is `SET_ALL` with the converted pixel, `CLEAR` is `SET_ALL` with black. -/
theorem exec_eq_setPixels {ins : Instr} {p : Pixel}
    (h : ins = .setAll p ∨ (∃ c, ins = .setAllHsv c ∧ p = hsv2rgb c) ∨ (ins = .clear ∧ p = ⟨0, 0, 0⟩)) (s : State) :
    exec ins s = setPixels p s := by
  rcases h with rfl | ⟨c, rfl, rfl⟩ | ⟨rfl, rfl⟩
  · rfl
  · rfl
  · rfl

theorem setPixels_of_live {s : State} (p : Pixel) (hl : s.life = .live) (hm : Memory.wf s = true) :
    setPixels p s = .next { answered 0x00000000#32 s with pb := List.replicate s.count.toNat p } := by
  have hfill : s.pb.mapIdx (fun _ _ => p) = List.replicate s.count.toNat p := by
    rw [← pb_length_of_memory_wf hm, List.mapIdx_eq_replicate_iff]
    exact fun _ _ => rfl
  rw [setPixels, whenLive_of_live hl, fillPixels_eq, succeed_rewritePixels, hfill]

/-! ## A span of pixels (R95) -/

theorem exec_setSpan (low high : Idx) (p : Pixel) (s : State) :
    exec (.setSpan low high p) s = execSetSpan low high p s := rfl

theorem exec_setSpan_of_out_of_range {s : State} {low high : Idx} (p : Pixel) (hl : s.life = .live)
    (hout : s.count.toNat ≤ low.toNat ∨ s.count.toNat ≤ high.toNat) :
    exec (.setSpan low high p) s = .next (answered 0x10000000#32 s) := by
  have hnot : ¬ (indexInRange s low ∧ indexInRange s high) := by omega
  rw [exec_setSpan, execSetSpan, whenLive_of_live hl, if_neg hnot, fail_indexOutOfRange]

theorem exec_setSpan_of_reversed {s : State} {low high : Idx} (p : Pixel) (hl : s.life = .live)
    (hlow : low.toNat < s.count.toNat) (hrev : high.toNat < low.toNat) :
    exec (.setSpan low high p) s = .next (answered 0x20000000#32 s) := by
  have hin : indexInRange s low ∧ indexInRange s high := ⟨hlow, hrev.trans hlow⟩
  rw [exec_setSpan, execSetSpan, whenLive_of_live hl, if_pos hin, if_pos hrev, fail_invalidRange]

/-- `PB` with the pixels `low` to `high` overwritten by `p`, both bounds inclusive. -/
def spanFilled (low high : Nat) (p : Pixel) (pb : List Pixel) : List Pixel :=
  pb.mapIdx fun i old => if low ≤ i ∧ i ≤ high then p else old

theorem exec_setSpan_of_in_range {s : State} {low high : Idx} (p : Pixel) (hl : s.life = .live)
    (hord : low.toNat ≤ high.toNat) (hhigh : high.toNat < s.count.toNat) :
    exec (.setSpan low high p) s =
      .next { answered 0x00000000#32 s with pb := spanFilled low.toNat high.toNat p s.pb } := by
  have hin : indexInRange s low ∧ indexInRange s high := ⟨hord.trans_lt hhigh, hhigh⟩
  rw [exec_setSpan, execSetSpan, whenLive_of_live hl, if_pos hin, if_neg (Nat.not_lt.mpr hord), fillSpan_eq,
    succeed_rewritePixels, spanFilled]

theorem spanFilled_length (low high : Nat) (p : Pixel) (pb : List Pixel) :
    (spanFilled low high p pb).length = pb.length := List.length_mapIdx

theorem spanFilled_getElem?_inside {low high j : Nat} (p : Pixel) {pb : List Pixel} (hlow : low ≤ j)
    (hhigh : j ≤ high) (hj : j < pb.length) : (spanFilled low high p pb)[j]? = some p := by
  simp [spanFilled, hlow, hhigh, hj]

theorem spanFilled_getElem?_outside {low high j : Nat} (p : Pixel) (pb : List Pixel) (hj : j < low ∨ high < j) :
    (spanFilled low high p pb)[j]? = pb[j]? := by
  have hnot : ¬ (low ≤ j ∧ j ≤ high) := by omega
  simp [spanFilled, hnot]

/-! ## The statements -/

/-- Settles O15: both commands are `setPixel`, whose one write is `List.set` at an index that exists. -/
theorem setOneOverwritesExactlyOnePixel : Obligations.SetOneOverwritesExactlyOnePixel := by
  intro ins i p s hins
  rw [exec_eq_setPixel hins]
  refine ⟨fun hl => whenLive_eq_notInitialized hl _, setPixel_of_out_of_range p, fun hl hm hi => ?_⟩
  have hlt : i.toNat < s.pb.length := pb_length_of_memory_wf hm ▸ hi
  exact ⟨_, setPixel_of_in_range p hl hi, List.length_set, List.getElem?_set_self hlt,
    fun j hj => List.getElem?_set_ne hj.symm⟩

/-- Settles O16: the three commands are `setPixels`. -/
theorem setAllOverwritesEveryPixel : Obligations.SetAllOverwritesEveryPixel := by
  intro ins p s hins
  rw [exec_eq_setPixels hins]
  exact ⟨fun hl => whenLive_eq_notInitialized hl _, setPixels_of_live p⟩

/-- Settles O17: the checks in the order of R95, then `spanFilled`. -/
theorem setSpanOverwritesTheSpan : Obligations.SetSpanOverwritesTheSpan := by
  intro low high p s
  refine ⟨fun hl => whenLive_eq_notInitialized hl _, exec_setSpan_of_out_of_range p,
    fun hl hlow _ hrev => exec_setSpan_of_reversed p hl hlow hrev, fun hl hm hord hhigh => ?_⟩
  have hlen : s.pb.length = s.count.toNat := pb_length_of_memory_wf hm
  exact ⟨_, exec_setSpan_of_in_range p hl hord hhigh, spanFilled_length ..,
    fun j hlow hj => spanFilled_getElem?_inside p hlow hj (by omega),
    fun j hj => spanFilled_getElem?_outside p s.pb hj⟩

end Sys2Proof.Machine

/-! PROOFS, family 42_transform: the new buffer of each transform as a function of the old one, what each transform
does case by case, the laws of R106 about these functions, and the statements. The rotations are `List.rotate`. -/

namespace Sys2Proof.Machine

/-! ## The state after a transform -/

/-- State `s` after a command that answered `OK` and replaced the pixels by `pb`. -/
def rewritten (pb : List Pixel) (s : State) : State := { answered 0x00000000#32 s with pb := pb }

@[simp] theorem rewritten_pb (pb : List Pixel) (s : State) : (rewritten pb s).pb = pb := rfl

/-- The second of two transforms decides the state. -/
@[simp] theorem rewritten_rewritten (pb pb' : List Pixel) (s : State) :
    rewritten pb' (rewritten pb s) = rewritten pb' s := rfl

/-- A transform that keeps the length of `PB` keeps it at `COUNT`. -/
theorem rewritten_pb_length {pb : List Pixel} {s : State} (hpb : pb.length = s.pb.length)
    (hlen : s.pb.length = s.count.toNat) : (rewritten pb s).pb.length = (rewritten pb s).count.toNat :=
  hpb.trans hlen

/-! ## Reading pixels -/

theorem pixelAt_of_length_le {pb : List Pixel} {k : Nat} (h : pb.length ≤ k) : pixelAt pb k = Pixel.black := by
  simp [pixelAt, h]

/-- Buffers of one length are equal when every pixel is. -/
theorem pb_ext {pb pb' : List Pixel} (hlen : pb.length = pb'.length)
    (h : ∀ j, j < pb'.length → pixelAt pb j = pixelAt pb' j) : pb = pb' := by
  refine List.ext_getElem hlen fun j hj hj' => ?_
  simpa [pixelAt, hj, hj'] using h j hj'

/-! ## The shifted buffers (R101, R102) -/

/-- The new buffer of `SHL n`. -/
def shiftedLeft (n : Nat) (pb : List Pixel) : List Pixel :=
  pb.mapIdx fun i _ => if i + n < pb.length then pixelAt pb (i + n) else Pixel.black

/-- The new buffer of `SHR n`. -/
def shiftedRight (n : Nat) (pb : List Pixel) : List Pixel :=
  pb.mapIdx fun i _ => if n ≤ i then pixelAt pb (i - n) else Pixel.black

@[simp] theorem shiftedLeft_length (n : Nat) (pb : List Pixel) : (shiftedLeft n pb).length = pb.length :=
  List.length_mapIdx

@[simp] theorem shiftedRight_length (n : Nat) (pb : List Pixel) : (shiftedRight n pb).length = pb.length :=
  List.length_mapIdx

/-- Past the end of a buffer `pixelAt` is black, so this holds for every index and amount. -/
theorem pixelAt_shiftedLeft (n : Nat) (pb : List Pixel) (j : Nat) :
    pixelAt (shiftedLeft n pb) j = pixelAt pb (j + n) := by
  by_cases hj : j < pb.length
  · rw [shiftedLeft, pixelAt_mapIdx pb _ j hj]
    split
    · rfl
    · exact (pixelAt_of_length_le (by omega)).symm
  · rw [pixelAt_of_length_le (by simpa using hj), pixelAt_of_length_le (by omega)]

theorem pixelAt_shiftedRight (n : Nat) {pb : List Pixel} {j : Nat} (hj : j < pb.length) :
    pixelAt (shiftedRight n pb) j = if n ≤ j then pixelAt pb (j - n) else Pixel.black :=
  pixelAt_mapIdx pb _ j hj

theorem shiftedLeft_getElem? (n : Nat) {pb : List Pixel} {j : Nat} (hj : j < pb.length) :
    (shiftedLeft n pb)[j]? = if j + n < pb.length then pb[j + n]? else some Pixel.black := by
  rw [getElem?_eq_pixelAt _ j (by simpa using hj), pixelAt_shiftedLeft]
  split
  · rw [getElem?_eq_pixelAt pb (j + n) ‹_›]
  · rw [pixelAt_of_length_le (by omega)]

theorem shiftedRight_getElem? (n : Nat) {pb : List Pixel} {j : Nat} (hj : j < pb.length) :
    (shiftedRight n pb)[j]? = if n ≤ j then pb[j - n]? else some Pixel.black := by
  rw [getElem?_eq_pixelAt _ j (by simpa using hj), pixelAt_shiftedRight n hj]
  split
  · rw [getElem?_eq_pixelAt pb (j - n) (by omega)]
  · rfl

theorem shiftedLeft_shiftedLeft (a b : Nat) (pb : List Pixel) :
    shiftedLeft b (shiftedLeft a pb) = shiftedLeft (a + b) pb := by
  refine pb_ext (by simp) fun j _ => ?_
  rw [pixelAt_shiftedLeft, pixelAt_shiftedLeft, pixelAt_shiftedLeft, Nat.add_assoc, Nat.add_comm b a]

theorem shiftedRight_shiftedRight (a b : Nat) (pb : List Pixel) :
    shiftedRight b (shiftedRight a pb) = shiftedRight (a + b) pb := by
  refine pb_ext (by simp) fun j hj => ?_
  have hj : j < pb.length := by simpa using hj
  rw [pixelAt_shiftedRight b (by simpa using hj), pixelAt_shiftedRight (a + b) hj]
  by_cases hb : b ≤ j
  · rw [if_pos hb, pixelAt_shiftedRight a (by omega), Nat.sub_sub, Nat.add_comm b a]
    exact if_congr (by omega) rfl rfl
  · rw [if_neg hb, if_neg (by omega)]

theorem shiftedRight_shiftedLeft_getElem? (n : Nat) {pb : List Pixel} {j : Nat} (hj : j < pb.length) :
    (shiftedRight n (shiftedLeft n pb))[j]? = if j < n then some Pixel.black else pb[j]? := by
  rw [getElem?_eq_pixelAt _ j (by simpa using hj), pixelAt_shiftedRight n (by simpa using hj), pixelAt_shiftedLeft]
  by_cases hn : j < n
  · rw [if_neg (by omega), if_pos hn]
  · rw [if_pos (by omega), if_neg hn, Nat.sub_add_cancel (by omega), getElem?_eq_pixelAt pb j hj]

/-! ## The rotated buffers (R103, R104) -/

/-- Reading the ring from `k` on is `List.rotate`. -/
theorem mapIdx_pixelAt_mod (pb : List Pixel) (k : Nat) :
    pb.mapIdx (fun i _ => pixelAt pb ((i + k) % pb.length)) = pb.rotate k := by
  refine List.ext_getElem (by simp) fun j _ hj => ?_
  have hlt : (j + k) % pb.length < pb.length := Nat.mod_lt _ (by rw [List.length_rotate] at hj; omega)
  simp [pixelAt, hlt, List.getElem_rotate]

/-- Two rotations that add up to a full turn. -/
theorem rotate_rotate_of_full_turn {pb : List Pixel} {a b : Nat} (h : a + b = pb.length) :
    (pb.rotate a).rotate b = pb := by
  rw [List.rotate_rotate, h, List.rotate_length]

/-! ## The four commands (R101 to R104) -/

theorem exec_rol_of_out_of_range {s : State} {n : Idx} (hl : s.life = .live) (hn : s.count.toNat ≤ n.toNat) :
    exec (.rol n) s = .next (answered 0x20000000#32 s) := by
  change execRol n s = _
  rw [execRol, whenLive_of_live hl, if_neg (Nat.not_lt.mpr hn), fail_invalidRange]

theorem exec_ror_of_out_of_range {s : State} {n : Idx} (hl : s.life = .live) (hn : s.count.toNat ≤ n.toNat) :
    exec (.ror n) s = .next (answered 0x20000000#32 s) := by
  change execRor n s = _
  rw [execRor, whenLive_of_live hl, if_neg (Nat.not_lt.mpr hn), fail_invalidRange]

section Live

variable {s : State} (hl : s.life = .live) (hlen : s.pb.length = s.count.toNat)
include hl

theorem exec_shr_of_live (n : Idx) : exec (.shr n) s = .next (rewritten (shiftedRight n.toNat s.pb) s) := by
  change execShr n s = _
  rw [execShr, whenLive_of_live hl, shiftRight_eq, succeed_rewritePixels]
  rfl

include hlen

theorem exec_shl_of_live (n : Idx) : exec (.shl n) s = .next (rewritten (shiftedLeft n.toNat s.pb) s) := by
  change execShl n s = _
  rw [execShl, whenLive_of_live hl, shiftLeft_eq, succeed_rewritePixels, ← hlen]
  rfl

theorem exec_rol_of_in_range {n : Idx} (hn : n.toNat < s.count.toNat) :
    exec (.rol n) s = .next (rewritten (s.pb.rotate n.toNat) s) := by
  change execRol n s = _
  rw [execRol, whenLive_of_live hl, if_pos hn, rotateLeft_eq, succeed_rewritePixels, ← hlen, mapIdx_pixelAt_mod]
  rfl

theorem exec_ror_of_in_range {n : Idx} (hn : n.toNat < s.count.toNat) :
    exec (.ror n) s = .next (rewritten (s.pb.rotate (s.pb.length - n.toNat)) s) := by
  have hsub (i : Nat) : i + s.count.toNat - n.toNat = i + (s.pb.length - n.toNat) := by omega
  change execRor n s = _
  rw [execRor, whenLive_of_live hl, if_pos hn, rotateRight_eq, succeed_rewritePixels]
  simp only [hsub]
  rw [← hlen, mapIdx_pixelAt_mod]
  rfl

end Live

/-! ## The statements -/

/-- Settles O19: the new buffer is `shiftedLeft`. -/
theorem shlShiftsTowardIndexZero : Obligations.ShlShiftsTowardIndexZero := by
  intro n s
  refine ⟨fun hl => whenLive_eq_notInitialized hl _, fun hl hm => ?_⟩
  have hlen : s.pb.length = s.count.toNat := pb_length_of_memory_wf hm
  refine ⟨_, exec_shl_of_live hl hlen n, shiftedLeft_length .., fun j hj => ?_⟩
  rw [← hlen] at hj ⊢
  exact shiftedLeft_getElem? n.toNat hj

/-- Settles O20: the new buffer is `shiftedRight`. -/
theorem shrShiftsAwayFromIndexZero : Obligations.ShrShiftsAwayFromIndexZero := by
  intro n s
  refine ⟨fun hl => whenLive_eq_notInitialized hl _, fun hl hm => ?_⟩
  have hlen : s.pb.length = s.count.toNat := pb_length_of_memory_wf hm
  exact ⟨_, exec_shr_of_live hl n, shiftedRight_length .., fun j hj => shiftedRight_getElem? n.toNat (hlen ▸ hj)⟩

/-- Settles O21: the new buffer is `List.rotate`. -/
theorem rolTurnsTheRingLeft : Obligations.RolTurnsTheRingLeft := by
  intro n s
  refine ⟨fun hl => whenLive_eq_notInitialized hl _, exec_rol_of_out_of_range, fun hl hm hn => ?_⟩
  have hlen : s.pb.length = s.count.toNat := pb_length_of_memory_wf hm
  refine ⟨_, exec_rol_of_in_range hl hlen hn, List.length_rotate .., fun j hj => ?_⟩
  rw [← hlen] at hj ⊢
  exact List.getElem?_rotate hj

/-- Settles O22: reading the new buffer turned left by `n` gives the old one back, pixel by pixel. -/
theorem rorTurnsTheRingRight : Obligations.RorTurnsTheRingRight := by
  intro n s
  refine ⟨fun hl => whenLive_eq_notInitialized hl _, exec_ror_of_out_of_range, fun hl hm hn => ?_⟩
  have hlen : s.pb.length = s.count.toNat := pb_length_of_memory_wf hm
  refine ⟨_, exec_ror_of_in_range hl hlen hn, List.length_rotate .., fun j hj => ?_⟩
  have hback : (s.pb.rotate (s.pb.length - n.toNat)).rotate n.toNat = s.pb :=
    rotate_rotate_of_full_turn (by omega)
  have hread := List.getElem?_rotate (l := s.pb.rotate (s.pb.length - n.toNat)) (n := n.toNat) (m := j)
    (by rwa [List.length_rotate, hlen])
  rw [hback, List.length_rotate, hlen] at hread
  rw [hread, hlen]

/-- Settles O23: the two amounts add up to a full turn. -/
theorem rotationsUndoEachOther : Obligations.RotationsUndoEachOther := by
  intro n s hl hm hn
  have hlen : s.pb.length = s.count.toNat := pb_length_of_memory_wf hm
  have hlen' (k : Nat) := rewritten_pb_length (List.length_rotate s.pb k) hlen
  refine ⟨⟨_, _, exec_rol_of_in_range hl hlen hn, exec_ror_of_in_range (s := rewritten _ s) hl (hlen' _) hn, ?_⟩,
    ⟨_, _, exec_ror_of_in_range hl hlen hn, exec_rol_of_in_range (s := rewritten _ s) hl (hlen' _) hn, ?_⟩⟩
  · exact rotate_rotate_of_full_turn (by rw [rewritten_pb, List.length_rotate]; omega)
  · exact rotate_rotate_of_full_turn (by omega)

/-- Settles O24: rotations add up, and a full turn makes no difference. -/
theorem leftRotationsAddUp : Obligations.LeftRotationsAddUp := by
  intro a b c s hl hm ha hb hc
  have hlen : s.pb.length = s.count.toNat := pb_length_of_memory_wf hm
  have hlen' := rewritten_pb_length (List.length_rotate s.pb a.toNat) hlen
  have hclt : c.toNat < s.count.toNat := hc ▸ Nat.mod_lt _ (by omega)
  refine ⟨_, _, _, exec_rol_of_in_range hl hlen ha, exec_rol_of_in_range (s := rewritten _ s) hl hlen' hb,
    exec_rol_of_in_range hl hlen hclt, ?_⟩
  rw [rewritten_rewritten, rewritten_pb, List.rotate_rotate, hc, ← hlen, List.rotate_mod]

/-- Settles O25: both shifts add up as functions of the buffer. -/
theorem shiftsAddUp : Obligations.ShiftsAddUp := by
  intro a b c s hl hm hc
  have hlen : s.pb.length = s.count.toNat := pb_length_of_memory_wf hm
  have hlen' := rewritten_pb_length (shiftedLeft_length a.toNat s.pb) hlen
  refine ⟨⟨_, _, _, exec_shl_of_live hl hlen a, exec_shl_of_live (s := rewritten _ s) hl hlen' b,
      exec_shl_of_live hl hlen c, ?_⟩,
    ⟨_, _, _, exec_shr_of_live hl a, exec_shr_of_live (s := rewritten _ s) hl b, exec_shr_of_live hl c, ?_⟩⟩
  · rw [rewritten_rewritten, rewritten_pb, shiftedLeft_shiftedLeft, hc]
  · rw [rewritten_rewritten, rewritten_pb, shiftedRight_shiftedRight, hc]

/-- Settles O26: `shiftedRight` after `shiftedLeft`, read pixel by pixel. -/
theorem shiftThereAndBackBlackensTheLowEnd : Obligations.ShiftThereAndBackBlackensTheLowEnd := by
  intro n s hl hm
  have hlen : s.pb.length = s.count.toNat := pb_length_of_memory_wf hm
  exact ⟨_, _, exec_shl_of_live hl hlen n, exec_shr_of_live (s := rewritten _ s) hl n,
    fun j hj => shiftedRight_shiftedLeft_getElem? n.toNat (hlen ▸ hj)⟩

end Sys2Proof.Machine

/-! PROOFS, family 43_encoder: the inverse bit-timing mapping, and the disabled frame beside the black one. -/

namespace Sys2Proof.Machine

/-! ## The inverse bit-timing mapping (R115 (d)) -/

theorem symbol_eq_t1Count_iff {cfg : Config} (hne : cfg.t0Count ≠ cfg.t1Count) (bit : Bool) :
    symbol cfg bit = cfg.t1Count ↔ bit = true := by
  cases bit
  · simpa [symbol] using hne
  · simp [symbol]

/-- The element read last is the low bit. -/
theorem readSymbols_concat (cfg : Config) (l : List Nat) (v : Nat) :
    readSymbols cfg (l ++ [v]) = 2 * readSymbols cfg l + if v = cfg.t1Count then 1 else 0 := by
  simp [readSymbols]

/-- The symbols of the low `n` bits of a number, most significant first, as the Encoder emits them. -/
def bitSymbols (cfg : Config) (n x : Nat) : List Nat :=
  (List.range n).map fun k => symbol cfg (x.testBit (n - 1 - k))

/-- The last symbol is bit 0, and those before it are the symbols of the upper bits. -/
theorem bitSymbols_succ (cfg : Config) (n x : Nat) :
    bitSymbols cfg (n + 1) x = bitSymbols cfg n (x / 2) ++ [symbol cfg (x.testBit 0)] := by
  have hupper : ∀ k ∈ List.range n,
      symbol cfg (x.testBit (n + 1 - 1 - k)) = symbol cfg ((x / 2).testBit (n - 1 - k)) := by
    intro k hk
    have hk : k < n := List.mem_range.mp hk
    rw [Nat.testBit_div_two, show n - 1 - k + 1 = n + 1 - 1 - k by omega]
  rw [bitSymbols, List.range_succ, List.map_append, List.map_congr_left hupper]
  simp [bitSymbols]

theorem readSymbols_bitSymbols {cfg : Config} (hne : cfg.t0Count ≠ cfg.t1Count) {n x : Nat} (hx : x < 2 ^ n) :
    readSymbols cfg (bitSymbols cfg n x) = x := by
  induction n generalizing x with
  | zero =>
    obtain rfl : x = 0 := by omega
    rfl
  | succ n ih =>
    have hhalf : x / 2 < 2 ^ n := by omega
    rw [bitSymbols_succ, readSymbols_concat, ih hhalf]
    simp only [symbol_eq_t1Count_iff hne, Nat.testBit_zero, decide_eq_true_eq]
    split <;> omega

/-- Eight consecutive elements that are the symbols of a channel are read back as that channel. -/
theorem readSymbols_window {cfg : Config} (hne : cfg.t0Count ≠ cfg.t1Count) {tb : List Nat} {j : Nat} {c : BitVec 8}
    (hc : ∀ k, k < 8 → tb[j + k]? = some (symbol cfg (c.getLsbD (7 - k)))) :
    BitVec.ofNat 8 (readSymbols cfg ((tb.drop j).take 8)) = c := by
  have hwindow : (tb.drop j).take 8 = bitSymbols cfg 8 c.toNat := by
    refine List.ext_getElem? fun k => ?_
    by_cases hk : k < 8
    · simp [hk, hc k hk, bitSymbols, BitVec.getLsbD]
    · simp [bitSymbols, hk]
  rw [hwindow, readSymbols_bitSymbols hne c.isLt, BitVec.ofNat_toNat, BitVec.setWidth_eq]

/-- The address map (O27) says where the three channels of pixel `p` stand, and each is read back. -/
theorem recoverPixel_encodeFrame {cfg : Config} (hne : cfg.t0Count ≠ cfg.t1Count) {pb : List Pixel} {p : Nat}
    {px : Pixel} (hp : pb[p]? = some px) : recoverPixel cfg (encodeFrame cfg pb false) p = px := by
  obtain ⟨hmap, -⟩ := encodedFrameHasTheAddressMap cfg pb
  have hgreen := readSymbols_window hne fun k hk => have ⟨h, _, _⟩ := hmap p k px hp hk; h
  have hred := readSymbols_window hne fun k hk => have ⟨_, h, _⟩ := hmap p k px hp hk; h
  have hblue := readSymbols_window hne fun k hk => have ⟨_, _, h⟩ := hmap p k px hp hk; h
  simp [recoverPixel, hgreen, hred, hblue]

/-- Settles O29: the recovered buffer, read pixel by pixel. -/
theorem encodedFrameDecodesBackToThePixels : Obligations.EncodedFrameDecodesBackToThePixels := by
  intro cfg pb hne
  refine List.ext_getElem (by simp [recoverPixels]) fun p _ hp => ?_
  simp [recoverPixels, recoverPixel_encodeFrame hne (List.getElem?_eq_getElem hp)]

/-! ## The disabled frame and the black one (R112) -/

theorem encodePixel_black (cfg : Config) : encodePixel cfg ⟨0, 0, 0⟩ = List.replicate 24 cfg.t0Count := rfl

/-- The enabled frame starts with the symbols of its pixels, and the gap follows. -/
theorem encodeFrame_take (cfg : Config) (pb : List Pixel) :
    (encodeFrame cfg pb false).take (24 * pb.length) = pb.flatMap (encodePixel cfg) := by
  rw [encodeFrame_enabled, List.take_left' (flatMap_encodePixel_length cfg pb)]

theorem encodeFrame_disabled_off (cfg : Config) (pb : List Pixel) : ∀ v ∈ encodeFrame cfg pb true, v = 0 := by
  intro v hv
  rw [encodeFrame_disabled] at hv
  exact List.eq_of_mem_replicate hv

/-- As many black pixels as `pb` has encode to `T0_COUNT` throughout. -/
theorem encodeFrame_black_take (cfg : Config) (pb : List Pixel) :
    (encodeFrame cfg (pb.map fun _ => ⟨0, 0, 0⟩) false).take (24 * pb.length) =
      List.replicate (24 * pb.length) cfg.t0Count := by
  have htake := encodeFrame_take cfg (pb.map fun _ => ⟨0, 0, 0⟩)
  rw [List.length_map] at htake
  rw [htake, List.map_const', List.flatMap_replicate, encodePixel_black, List.flatten_replicate_replicate, Nat.mul_comm]

/-- Settles O28: the black frame holds `T0_COUNT`, which R7 keeps different from 0, and the disabled frame does not. -/
theorem disabledFrameIsAllOffAndNotBlack : Obligations.DisabledFrameIsAllOffAndNotBlack := by
  intro cfg pb hwf hpb
  refine ⟨encodeFrame_disabled_off cfg pb, by rw [encodeFrame_length, encodeFrame_length],
    encodeFrame_black_take cfg pb, fun hsame => ?_⟩
  obtain ⟨-, -, ht0, -⟩ := (config_wf_iff cfg).mp hwf
  have hmem : cfg.t0Count ∈ (encodeFrame cfg (pb.map fun _ => ⟨0, 0, 0⟩) false).take (24 * pb.length) := by
    rw [encodeFrame_black_take]
    simp [hpb]
  have hzero : cfg.t0Count = 0 := encodeFrame_disabled_off cfg pb _ (hsame ▸ List.mem_of_mem_take hmem)
  omega

end Sys2Proof.Machine

/-! PROOFS, family 44_transfer: `UPDATE` and `NOTIFY` in one equation per case, what a step can do while a command is
held, and the statements about the TransferController. -/

namespace Sys2Proof.Machine

/-! ## `UPDATE` and `NOTIFY` (R121, R125, R126) -/

theorem exec_notify (s : State) : exec .notify s = .next (quiet (clearBusy s)) := rfl

theorem exec_update (s : State) :
    exec .update s = whenLive s (if s.busy then hold .update s else proceedUpdate s) := rfl

theorem exec_update_of_busy {s : State} (hl : s.life = .live) (hb : s.busy = true) :
    exec .update s = .next { s with held := some .update, out := Output.silent } := by
  rw [exec_update, whenLive_of_live hl, if_pos hb]
  rfl

theorem exec_update_of_idle {s : State} (hl : s.life = .live) (hb : s.busy = false) :
    exec .update s = proceedUpdate s := by
  rw [exec_update, whenLive_of_live hl, if_neg (by simp [hb])]

/-- The environment answers a start request with `a`, the next of the listed answers or, where none is listed, a free
value; `answers` and `draws` are what is left then (R124). -/
def answersStart (s : State) (a : Bool) (answers : List Bool) (draws : Nat) : Prop :=
  (s.answers = a :: answers ∧ draws = s.draws) ∨
    (s.answers = [] ∧ answers = [] ∧ a = Config.freeStartAnswer s.draws ∧ draws = s.draws + 1)

theorem startAnswer_takeAnswer_eq {s : State} {a : Bool} {answers : List Bool} {draws : Nat}
    (h : answersStart s a answers draws) :
    startAnswer s = a ∧ takeAnswer s = { s with answers := answers, draws := draws } := by
  rcases h with ⟨hs, rfl⟩ | ⟨hs, rfl, rfl, rfl⟩
  · simp [startAnswer, takeAnswer, hs]
  · simp [startAnswer, takeAnswer, hs]

/-- The proceed step leaves `BUSY` at the answer to its start request. -/
theorem proceedUpdate_eq {s : State} {a : Bool} {answers : List Bool} {draws : Nat}
    (h : answersStart s a answers draws) :
    proceedUpdate s = .next
      { s with
        tb := encodeFrame s.cfg s.pb s.disable, busy := a, held := none, answers := answers, draws := draws,
        out := { response := some (if a then 0x00000000#32 else 0x50000000#32),
                 start := some (tbLen s), readData := none } } := by
  obtain ⟨ha, ht⟩ := startAnswer_takeAnswer_eq (s := setBusy (writeTb (encodeFrame s.cfg s.pb s.disable) s)) h
  simp only [proceedUpdate, ha, ht]
  cases a
  · rfl
  · rfl

/-- Settles O31: the event is `clearBusy`, with nothing on the outputs. -/
theorem notifyEndsBusyAndNothingElse : Obligations.NotifyEndsBusyAndNothingElse := exec_notify

/-- Settles O30, one equation per case. -/
theorem updateEncodesAndStarts : Obligations.UpdateEncodesAndStarts := by
  intro s
  refine ⟨fun hl => ?notLive, exec_update_of_busy, fun hl hb a answers draws h => ?proceeds⟩
  case notLive => exact whenLive_eq_notInitialized hl _
  case proceeds => exact (exec_update_of_idle hl hb).trans (proceedUpdate_eq h)

/-! ## Who asks for a start (R124) -/

theorem held_or_host_of_runs_update {s : State} (h : runs .update s) :
    s.held = some .update ∨ ∃ w rest, s.turns = .host w :: rest ∧ decode (.command w) = .ok .update := by
  rcases h with hw | ⟨-, k, hk, hi⟩
  · exact .inr hw
  · cases k with
    | update => exact .inl hk
    | teardown => cases hi

/-- A step that asks for a start is the proceed step of an `UPDATE`. -/
theorem proceeded_of_start {s t : State} (h : step s = .next t) (hs : t.out.start ≠ none) :
    runs .update s ∧ Proceeded (afterFetch s) t := by
  rcases step_cases h with ⟨i, hi, he⟩ | ⟨-, rfl⟩ | ⟨-, hn, -⟩
  · rcases he.busy_cases with ⟨rfl, hp⟩ | ⟨-, -, hn⟩ | ⟨-, -, hn⟩
    · exact ⟨runs_of_stepRuns hi (by simp), hp⟩
    · exact absurd hn hs
    · exact absurd hn hs
  · exact absurd rfl hs
  · exact absurd hn hs

/-- Settles O34: what `proceeded_of_start` says of the step, item by item. -/
theorem startIsRequestedOnlyByAProceedStep : Obligations.StartIsRequestedOnlyByAProceedStep := by
  intro s t n h hn
  obtain ⟨hrun, hp⟩ := proceeded_of_start h (by simp [hn])
  exact ⟨Option.some.inj (hn.symm.trans hp.start_eq), hp.was_live, hp.was_idle, hp.tb_eq,
    held_or_host_of_runs_update hrun⟩

/-! ## Runs of several steps -/

theorem steps_succ {s t : State} (h : step s = .next t) (k : Nat) : steps (k + 1) s = steps k t := by
  simp only [steps, h]

theorem steps_succ_eq_next {k : Nat} {s t : State} (h : steps (k + 1) s = .next t) :
    ∃ u, step s = .next u ∧ steps k u = .next t := by
  simp only [steps] at h
  split at h
  · exact ⟨_, by assumption, h⟩
  · cases h
  · cases h

theorem steps_add {k : Nat} {s t : State} (h : steps k s = .next t) (m : Nat) : steps (k + m) s = steps m t := by
  induction k generalizing s with
  | zero => cases h; rw [Nat.zero_add]
  | succ k ih =>
    obtain ⟨u, hu, hk⟩ := steps_succ_eq_next h
    rw [Nat.add_right_comm, steps_succ hu, ih hk]

/-- `BUSY` at 1 stays until a `NOTIFY` or a reset, and with it no start is accepted (R131). -/
theorem endsBusy_before_acceptsStart {k : Nat} {s t : State} (hb : s.busy = true) (hk : steps k s = .next t)
    (ht : acceptsStart t) : ∃ j u, j < k ∧ steps j s = .next u ∧ endsBusy u := by
  induction k generalizing s with
  | zero =>
    cases hk
    obtain ⟨u, hu, hs, -⟩ := ht
    exact absurd (hb.symm.trans (proceeded_of_start hu hs).2.was_idle) (by simp)
  | succ k ih =>
    by_cases he : endsBusy s
    · exact ⟨0, s, by omega, rfl, he⟩
    obtain ⟨v, hv, hk⟩ := steps_succ_eq_next hk
    have hvb : v.busy = true := by
      by_contra hvb
      exact he ((busyRisesOnlyAtAnAcceptedStart s v hv).2 hb (by simpa using hvb))
    obtain ⟨j, u, hj, hu, hend⟩ := ih hvb hk
    exact ⟨j + 1, u, by omega, by rwa [steps_succ hv], hend⟩

/-- Settles O37: an accepted start leaves `BUSY` at 1. -/
theorem noSecondStartBeforeNotify : Obligations.NoSecondStartBeforeNotify := by
  rintro k s s' t ⟨u, hu, -, hb⟩ hs hk ht
  cases hu.symm.trans hs
  exact endsBusy_before_acceptsStart hb hk ht

/-! ## A `NOTIFY` turn (R70, R127) -/

theorem step_of_notify {s : State} {rest : List Turn} (hwf : s.cfg.wellFormed = true)
    (ht : s.turns = .notify 1#1 :: rest) : step s = .next (quiet (clearBusy { s with turns := rest })) :=
  (step_of_turn hwf ht).trans ((notifyTurn_one _).trans (exec_notify _))

/-- Settles O38: the `NOTIFY` turn, then the host's. -/
theorem notifyAtTheSameInstantGoesFirst : Obligations.NotifyAtTheSameInstantGoesFirst := by
  intro s w i rest hwf hh ht hd
  have hsecond := step_of_turn (s := quiet (clearBusy { s with turns := .host w :: rest })) hwf rfl
  exact ⟨_, step_of_notify hwf ht, hsecond.trans (hostTurn_of_decode_ok hh hd)⟩

/-! ## What a step can do while a command is held (R122, R137) -/

/-- A live Instance holds the command `h`. -/
structure Holding (h : Held) (s : State) : Prop where
  cfg_wf : s.cfg.wellFormed = true
  live : s.life = .live
  held : s.held = some h

theorem Inv.holding {h : Held} {s : State} (hs : Inv s) (hh : s.held = some h) : Holding h s :=
  ⟨hs.cfg_wf, hs.held_live (by simp [hh]), hh⟩

/-- What the turn of the CORE that completes the held command `h` leaves: it has responded, `UPDATE` has encoded `PB` and
`DISABLE` as they are in that turn (R128), `TEARDOWN` has released the Instance. -/
structure HeldCompleted (h : Held) (s t : State) : Prop where
  not_held : t.held = none
  responded : t.out.response ≠ none
  updated : h = .update → t.tb = encodeFrame s.cfg s.pb s.disable ∧ t.pb = s.pb ∧ t.count = s.count ∧ t.life = .live
  released : h = .teardown → t.life = .dead ∧ t.count = 0 ∧ t.pb = [] ∧ t.tb = [] ∧ t.busy = false

/-- On a live Instance a command of the kind that holds waits while `BUSY` is 1, and completes if it is 0. -/
theorem Effect.held_cases {h : Held} {s t : State} (he : Effect s h.instr t) (hl : s.life = .live) :
    (s.busy = true ∧ t = quiet { s with held := some h }) ∨ (s.busy = false ∧ HeldCompleted h s t) := by
  cases h with
  | update =>
    cases he with
    | report _ _ _ _ _ _ hheld => exact absurd hl (hheld (.inl rfl))
    | heldBack c hc _ hb => cases c <;> cases hc; exact .inl ⟨hb, rfl⟩
    | started _ _ hb | rejected _ _ hb =>
      exact .inr ⟨hb, rfl, by simp, fun _ => by simp [hl], nofun⟩
    | pixels _ hi | claimed _ hi | released hi | disabled _ hi | notified hi => cases hi
  | teardown =>
    cases he with
    | report _ _ _ _ _ _ hheld => exact absurd hl (hheld (.inr rfl))
    | heldBack c hc _ hb => cases c <;> cases hc; exact .inl ⟨hb, rfl⟩
    | released _ _ hb => exact .inr ⟨hb, rfl, by simp, nofun, fun _ => ⟨rfl, rfl, rfl, rfl, hb⟩⟩
    | pixels _ hi | claimed _ hi | started hi | rejected hi | disabled _ hi | notified hi => cases hi

theorem Effect.notify_eq {s t : State} (he : Effect s .notify t) : t = quiet (clearBusy s) := by
  cases he with
  | notified => rfl
  | report _ _ hi => exact absurd rfl hi
  | heldBack c hc => exact absurd hc.symm c.instr_ne_notify
  | pixels _ hi | claimed _ hi | released hi | disabled _ hi | started hi | rejected hi => cases hi

/-- What a step can lead to while the command `h` is held. -/
inductive HeldStep (h : Held) (s : State) : State → Prop
  | notified (rest : List Turn) (ht : s.turns = .notify 1#1 :: rest) : HeldStep h s (quiet (clearBusy (afterFetch s)))
  | reset (rest : List Turn) (ht : s.turns = .reset :: rest) : HeldStep h s (resetCore (afterFetch s))
  /-- The CORE's turn with `BUSY` at 1. -/
  | waits (ht : s.turns = [] ∨ ∃ rest, s.turns = .core :: rest) (hb : s.busy = true) :
      HeldStep h s (quiet (afterFetch s))
  /-- The CORE's turn with `BUSY` at 0. -/
  | completes (t : State) (ht : s.turns = [] ∨ ∃ rest, s.turns = .core :: rest) (hb : s.busy = false)
      (hc : HeldCompleted h s t) : HeldStep h s t
  | noEvent (rest : List Turn) (ht : s.turns = .notify 0#1 :: rest) : HeldStep h s (quiet (afterFetch s))
  | read (j : Nat) (rest : List Turn) (ht : s.turns = .tbRead j :: rest) : HeldStep h s (readTb j (afterFetch s))

theorem Holding.heldStep {h : Held} {s t : State} (hs : Holding h s) (hstep : step s = .next t) : HeldStep h s t := by
  have hne : s.held ≠ none := by simp [hs.held]
  cases (step_effect hstep).2 with
  | word p i _ hp hd he =>
    rcases hp with ⟨_, _, -, -, hn⟩ | ⟨rest, rfl, ht⟩
    · exact absurd hn hne
    · cases hd
      rw [he.notify_eq]
      exact .notified rest ht
  | retry c _ hc ht he =>
    obtain rfl : c = h := Option.some.inj (hc.symm.trans hs.held)
    rcases he.held_cases hs.live with ⟨hb, rfl⟩ | ⟨hb, hcompleted⟩
    · have hf : { afterFetch s with held := some c } = afterFetch s := by rw [← hs.held]; rfl
      rw [hf]
      exact .waits ht hb
    · exact .completes t ht hb { hcompleted with }
  | illegal _ _ _ _ hn => exact absurd hn hne
  | idle ht =>
    rcases ht with ⟨hn, -⟩ | ⟨_, rest, ht, rfl⟩
    · exact absurd hn hne
    · exact .noEvent rest ht
  | read j rest ht => exact .read j rest ht
  | reset rest ht => exact .reset rest ht

/-- The CORE always takes a step while it holds a command and the host presents none. -/
theorem Holding.exists_heldStep {h : Held} {s : State} (hs : Holding h s) (hh : ∀ w rest, s.turns ≠ .host w :: rest) :
    ∃ t, step s = .next t ∧ HeldStep h s t :=
  (step_answers hs.cfg_wf (.inr hh)).imp fun _ ht => ⟨ht, hs.heldStep ht⟩

@[simp] theorem readTb_response (j : Nat) (s : State) : (readTb j s).out.response = none := by
  unfold readTb
  split <;> rfl

theorem readTb_frame (j : Nat) (s : State) :
    readTb j s = { s with draws := (readTb j s).draws, out := (readTb j s).out } := by
  unfold readTb
  split <;> rfl

/-- Settles O35: of the steps while a command is held, those that are no `NOTIFY`, no reset and no completion. -/
theorem holdChangesNothing : Obligations.HoldChangesNothing := by
  intro s t h hl hb hh he hstep
  have hs : Holding h s := ⟨(step_effect hstep).1, hl, hh⟩
  cases hs.heldStep hstep with
  | notified rest ht => exact absurd (.inl ⟨rest, ht⟩) he
  | reset rest ht => exact absurd (.inr ⟨rest, ht⟩) he
  | completes _ _ hidle => simp [hb] at hidle
  | waits | noEvent => exact ⟨rfl, rfl, rfl⟩
  | read j => exact ⟨readTb_frame j _, readTb_response j _, readTb_start j _⟩

/-! ## From the hold to the completion (R128, R130, R137) -/

theorem SameItems.refl (s : State) : SameItems s s := ⟨rfl, rfl, rfl, rfl, rfl, rfl, rfl, rfl⟩

theorem SameItems.trans {s t u : State} (h : SameItems s t) (h' : SameItems t u) : SameItems s u :=
  ⟨h'.cfg_eq.trans h.cfg_eq, h'.life_eq.trans h.life_eq, h'.count_eq.trans h.count_eq, h'.busy_eq.trans h.busy_eq,
    h'.disable_eq.trans h.disable_eq, h'.pb_eq.trans h.pb_eq, h'.tb_eq.trans h.tb_eq, h'.held_eq.trans h.held_eq⟩

theorem Holding.of_sameItems {h : Held} {s t : State} (hs : Holding h s) (hst : SameItems s t) : Holding h t :=
  ⟨hst.cfg_eq ▸ hs.cfg_wf, hst.life_eq.trans hs.live, hst.held_eq.trans hs.held⟩

/-- A passive turn changes no item of the CORE, if the CORE's own is one in which it waits. -/
theorem Holding.step_passive {h : Held} {s : State} {turn : Turn} {rest : List Turn} (hs : Holding h s)
    (ht : s.turns = turn :: rest) (hp : passiveTurn turn = true) (hc : turn = .core → s.busy = true) :
    ∃ t, step s = .next t ∧ SameItems s t := by
  obtain ⟨t, hstep, he⟩ := hs.exists_heldStep fun w rest' hw => by cases ht.symm.trans hw; cases hp
  refine ⟨t, hstep, ?_⟩
  cases he with
  | waits | noEvent => exact ⟨rfl, rfl, rfl, rfl, rfl, rfl, rfl, rfl⟩
  | read => constructor <;> simp
  | notified _ ht' | reset _ ht' => cases ht.symm.trans ht'; cases hp
  | completes _ ht' hb =>
    rcases ht' with ht' | ⟨_, ht'⟩
    · cases ht.symm.trans ht'
    · cases ht.symm.trans ht'
      simp [hb] at hc

/-- So do any number of passive turns. -/
theorem Holding.steps_passive {h : Held} (before : List Turn) {s : State} {rest : List Turn} (hs : Holding h s)
    (ht : s.turns = before ++ rest) (hp : ∀ t ∈ before, passiveTurn t = true) (hc : .core ∈ before → s.busy = true) :
    ∃ t, steps before.length s = .next t ∧ SameItems s t ∧ t.turns = rest := by
  induction before generalizing s with
  | nil => exact ⟨s, rfl, .refl s, ht⟩
  | cons turn before ih =>
    obtain ⟨u, hu, hsu⟩ := hs.step_passive ht (hp turn (by simp)) fun h => hc (by simp [h])
    have hut : u.turns = before ++ rest := by rw [step_turns hu, ht]; rfl
    obtain ⟨t, hk, hut, hrest⟩ := ih (hs.of_sameItems hsu) hut (fun t hm => hp t (by simp [hm]))
      fun hm => hsu.busy_eq.trans (hc (by simp [hm]))
    exact ⟨t, by rwa [List.length_cons, steps_succ hu], hsu.trans hut, hrest⟩

/-- With `BUSY` at 0 the CORE's turn completes the held command. -/
theorem Holding.step_completes {h : Held} {s : State} (hs : Holding h s) (hb : s.busy = false)
    (ht : s.turns = [] ∨ ∃ rest, s.turns = .core :: rest) : ∃ t, step s = .next t ∧ HeldCompleted h s t := by
  obtain ⟨t, hstep, he⟩ := hs.exists_heldStep fun w rest hw => by simp [hw] at ht
  refine ⟨t, hstep, ?_⟩
  cases he with
  | completes _ _ _ hc => exact hc
  | waits _ hbusy => simp [hb] at hbusy
  | notified _ hn | reset _ hn | noEvent _ hn | read _ _ hn => simp [hn] at ht

/-- Settles O36: passive turns up to the `NOTIFY`, which clears `BUSY`; passive turns after it; the turn of the CORE. -/
theorem heldCommandCompletesAfterNotify : Obligations.HeldCommandCompletesAfterNotify := by
  intro s before after own rest h hwf hl hb hh ht hown hbefore hafter
  have hs : Holding h s := ⟨hwf, hl, hh⟩
  obtain ⟨u, hu, hsu, hut⟩ := hs.steps_passive before ht hbefore fun _ => hb
  have hu' : Holding h u := hs.of_sameItems hsu
  have hn := step_of_notify hu'.cfg_wf hut
  have hv : Holding h (quiet (clearBusy { u with turns := after ++ own })) := ⟨hu'.cfg_wf, hu'.live, hu'.held⟩
  obtain ⟨x, hx, hvx, hxt⟩ := hv.steps_passive after rfl (fun t hm => (hafter t hm).1)
    fun hm => absurd rfl (hafter _ hm).2
  have hcore : x.turns = [] ∨ ∃ rest, x.turns = .core :: rest := by
    rcases hown with rfl | ⟨rfl, -⟩
    · exact .inr ⟨rest, hxt⟩
    · exact .inl hxt
  obtain ⟨t, hstep, hc⟩ := (hv.of_sameItems hvx).step_completes hvx.busy_eq hcore
  have hcfg : x.cfg = s.cfg := hvx.cfg_eq.trans hsu.cfg_eq
  have hpb : x.pb = s.pb := hvx.pb_eq.trans hsu.pb_eq
  have hdis : x.disable = s.disable := hvx.disable_eq.trans hsu.disable_eq
  have hcount : x.count = s.count := hvx.count_eq.trans hsu.count_eq
  refine ⟨t, ?run, hc.not_held, ?turns, hc.responded, ?updated, hc.released⟩
  case run =>
    calc steps (before.length + 1 + after.length + 1) s
      _ = steps (before.length + (after.length + 1 + 1)) s := by congr 1; omega
      _ = steps (after.length + 1 + 1) u := steps_add hu _
      _ = steps (after.length + 1) _ := steps_succ hn _
      _ = steps 1 x := steps_add hx 1
      _ = .next t := steps_succ hstep 0
  case turns =>
    rw [step_turns hstep, hxt]
    rcases hown with rfl | ⟨rfl, rfl⟩ <;> rfl
  case updated => rw [← hcfg, ← hpb, ← hdis, ← hcount]; exact hc.updated

/-! ## Under the contract every hold ends (R130, R172, R174) -/

/-- While the command `h` is held the host presents no second one and no reset comes (R62). -/
def undisturbed (h : Held) (s : State) : Prop :=
  ∀ k u rest, steps k s = .next u → u.held = some h → u.turns ≠ .reset :: rest ∧ ∀ w, u.turns ≠ .host w :: rest

/-- The held command completes, with its response, after some number of steps. -/
def completesLater (s : State) : Prop := ∃ k t, steps k s = .next t ∧ t.held = none ∧ t.out.response ≠ none

theorem undisturbed_step {h : Held} {s t : State} (hs : undisturbed h s) (hstep : step s = .next t) :
    undisturbed h t :=
  fun k u rest hk => hs (k + 1) u rest (by rwa [steps_succ hstep])

theorem completesLater_of_step {s t : State} (hstep : step s = .next t) (ht : completesLater t) : completesLater s :=
  let ⟨k, u, hk, hu⟩ := ht
  ⟨k + 1, u, by rwa [steps_succ hstep], hu⟩

theorem HeldCompleted.completesLater {h : Held} {s t : State} (hc : HeldCompleted h s t) (hstep : step s = .next t) :
    completesLater s :=
  ⟨1, t, steps_succ hstep 0, hc.not_held, hc.responded⟩

/-- An undisturbed step completes the held command or keeps it held, and then `BUSY`, if it is 0, stays 0. -/
theorem Holding.exists_undisturbed_step {h : Held} {s : State} (hs : Holding h s) (hq : undisturbed h s) :
    ∃ t, step s = .next t ∧ undisturbed h t ∧
      (HeldCompleted h s t ∨ Holding h t ∧ (s.busy = false → t.busy = false)) := by
  have hfree := fun rest => hq 0 s rest rfl hs.held
  obtain ⟨t, hstep, he⟩ := hs.exists_heldStep fun w rest => (hfree rest).2 w
  refine ⟨t, hstep, undisturbed_step hq hstep, ?_⟩
  cases he with
  | completes _ _ _ hc => exact .inl hc
  | reset rest ht => exact absurd ht (hfree rest).1
  | notified => exact .inr ⟨⟨hs.cfg_wf, hs.live, hs.held⟩, fun _ => rfl⟩
  | waits | noEvent => exact .inr ⟨⟨hs.cfg_wf, hs.live, hs.held⟩, id⟩
  | read => exact .inr ⟨⟨by simp [hs.cfg_wf], by simp [hs.live], by simp [hs.held]⟩, by simp⟩

/-- With `BUSY` at 0 the hold ends at the CORE's next turn, and that comes at the latest when the listed turns run out. -/
theorem Holding.completesLater_of_idle {h : Held} {s : State} (hs : Holding h s) (hq : undisturbed h s)
    (hb : s.busy = false) : completesLater s := by
  induction hn : s.turns.length generalizing s with
  | zero =>
    obtain ⟨t, hstep, hc⟩ := hs.step_completes hb (.inl (List.eq_nil_of_length_eq_zero hn))
    exact hc.completesLater hstep
  | succ n ih =>
    obtain ⟨t, hstep, hqt, hc | ⟨ht, hidle⟩⟩ := hs.exists_undisturbed_step hq
    · exact hc.completesLater hstep
    · exact completesLater_of_step hstep (ih ht hqt (hidle hb) (by simp [step_turns hstep, hn]))

/-- Under the contract the hold ends if the collaborator is later seen with no transfer under way. -/
theorem Contract.completesLater {h : Held} (j : Nat) {s u : State} {c : Option Transfer} (hinv : Inv s)
    (hin : InStep c s) (hc : Contract c s) (hh : s.held = some h) (hq : undisturbed h s)
    (hrun : runWith j s c = some (u, none)) : completesLater s := by
  induction j generalizing s c with
  | zero =>
    cases hrun
    exact (hinv.holding hh).completesLater_of_idle hq (by simpa using hin.busy_iff)
  | succ j ih =>
    obtain ⟨t, hstep, hqt, hdone | ⟨ht, -⟩⟩ := (hinv.holding hh).exists_undisturbed_step hq
    · exact hdone.completesLater hstep
    have hinv' : Inv t := everyStepKeepsTheInvariant s t hinv hstep
    obtain ⟨hin', -⟩ := busyTracksTheTransferUnderTheContract s t c hinv hin (hc.every_turn 0 s c rfl) hstep
    rw [runWith_succ hstep] at hrun
    exact completesLater_of_step hstep (ih hinv' hin' (hc.tail hstep) ht.held hqt hrun)

/-- Settles O57: the owed `NOTIFY` completes the transfer, if one is under way, and the hold ends by then or after it. -/
theorem everyHoldEndsUnderTheContract : Obligations.EveryHoldEndsUnderTheContract := by
  intro s c h hinv hin hc hh hq
  cases c with
  | none => exact hc.completesLater 0 hinv hin hh hq (runWith_zero s none)
  | some x =>
    obtain ⟨j, u, hj⟩ := hc.notify_comes 0 s x (runWith_zero s (some x))
    exact hc.completesLater j hinv hin hh hq hj

end Sys2Proof.Machine

/-! PROOFS, family 45_lifecycle: what `INIT`, `TEARDOWN` and `SET_DISABLE` do case by case, and the three statements
about them. -/

namespace Sys2Proof.Machine

/-! ## `INIT` (R136) -/

theorem fail_allocationFailure (s : State) : fail .allocationFailure s = .next (answered 0x40000000#32 s) := rfl

theorem exec_init (count : Idx) (s : State) : exec (.init count) s = execInit count s := rfl

theorem exec_init_of_dead (count : Idx) {s : State} (hl : s.life = .dead) :
    exec (.init count) s = .next (answered 0x30000000#32 s) := by
  simp only [exec_init, execInit, hl, fail_notInitialized]

theorem exec_init_of_live (count : Idx) {s : State} (hl : s.life = .live) :
    exec (.init count) s = .next (answered 0x40000000#32 s) := by
  simp only [exec_init, execInit, hl, fail_allocationFailure]

/-- Without an Instance so far, only the checks of the count are left. -/
theorem exec_init_of_uninit (count : Idx) {s : State} (hl : s.life = .uninit) :
    exec (.init count) s =
      if count.toNat = 0 then fail .invalidRange s
      else if s.cfg.maxLeds < count.toNat then fail .allocationFailure s
      else succeed 0 (claimStorage count s) := by
  simp only [exec_init, execInit, hl]

theorem exec_init_of_zero {count : Idx} {s : State} (hl : s.life = .uninit) (hc : count.toNat = 0) :
    exec (.init count) s = .next (answered 0x20000000#32 s) := by
  rw [exec_init_of_uninit count hl, if_pos hc, fail_invalidRange]

theorem exec_init_of_too_many {count : Idx} {s : State} (hl : s.life = .uninit) (hc : s.cfg.maxLeds < count.toNat) :
    exec (.init count) s = .next (answered 0x40000000#32 s) := by
  rw [exec_init_of_uninit count hl, if_neg (Nat.ne_zero_of_lt hc), if_pos hc, fail_allocationFailure]

theorem succeed_claimStorage (count : Idx) (s : State) :
    succeed 0 (claimStorage count s) = .next
      { answered 0x00000000#32 s with
        count := count, life := .live, pb := List.replicate count.toNat ⟨0, 0, 0⟩ } := rfl

theorem exec_init_of_fits {count : Idx} {s : State} (hl : s.life = .uninit) (hpos : 1 ≤ count.toNat)
    (hmax : count.toNat ≤ s.cfg.maxLeds) :
    exec (.init count) s = .next
      { answered 0x00000000#32 s with
        count := count, life := .live, pb := List.replicate count.toNat ⟨0, 0, 0⟩ } := by
  rw [exec_init_of_uninit count hl, if_neg (Nat.one_le_iff_ne_zero.mp hpos), if_neg (Nat.not_lt.mpr hmax),
    succeed_claimStorage]

/-! ## `TEARDOWN` (R135, R137) -/

theorem exec_teardown (s : State) :
    exec .teardown s = whenLive s (if s.busy then hold .teardown s else succeed 0 (releaseStorage s)) := rfl

theorem exec_teardown_of_busy {s : State} (hl : s.life = .live) (hb : s.busy = true) :
    exec .teardown s = .next { s with held := some .teardown, out := Output.silent } := by
  rw [exec_teardown, whenLive_of_live hl, if_pos hb]
  rfl

theorem succeed_releaseStorage (s : State) :
    succeed 0 (releaseStorage s) =
      .next { answered 0x00000000#32 s with count := 0, life := .dead, pb := [], tb := [] } := rfl

theorem exec_teardown_of_idle {s : State} (hl : s.life = .live) (hb : s.busy = false) :
    exec .teardown s = .next { answered 0x00000000#32 s with count := 0, life := .dead, pb := [], tb := [] } := by
  rw [exec_teardown, whenLive_of_live hl, if_neg (ne_true_of_eq_false hb), succeed_releaseStorage]

/-! ## `SET_DISABLE` (R138) -/

theorem exec_setDisable (f : Bool) (s : State) :
    exec (.setDisable f) s = whenLive s (succeed 0 (writeDisable f s)) := rfl

theorem succeed_writeDisable (f : Bool) (s : State) :
    succeed 0 (writeDisable f s) = .next { answered 0x00000000#32 s with disable := f } := rfl

theorem exec_setDisable_of_live (f : Bool) {s : State} (hl : s.life = .live) :
    exec (.setDisable f) s = .next { answered 0x00000000#32 s with disable := f } := by
  rw [exec_setDisable, whenLive_of_live hl, succeed_writeDisable]

/-! ## The statements -/

/-- Settles O41, one equation per check of R136 and one for the command that passes them all. -/
theorem initClaimsABlackBuffer : Obligations.InitClaimsABlackBuffer :=
  fun count _ => ⟨exec_init_of_dead count, exec_init_of_live count, exec_init_of_zero, exec_init_of_too_many,
    exec_init_of_fits⟩

/-- Settles O42: the check of `whenLive`, the hold, and the release. -/
theorem teardownReleasesTheInstance : Obligations.TeardownReleasesTheInstance :=
  fun _ => ⟨fun hl => whenLive_eq_notInitialized hl _, exec_teardown_of_busy, exec_teardown_of_idle⟩

/-- Settles O43: past the check of `whenLive` there is no other, and `BUSY` is not looked at. -/
theorem setDisableWritesTheFlagOnly : Obligations.SetDisableWritesTheFlagOnly :=
  fun f _ => ⟨fun hl => whenLive_eq_notInitialized hl _, exec_setDisable_of_live f⟩

end Sys2Proof.Machine

/-! PROOFS, family 60_exceptions: what an error leaves of the state, which command can report which status, and the
three statements about them. -/

namespace Sys2Proof.Machine

/-! ## An error changes no state (R150) -/

theorem takeAnswer_frame (s : State) :
    takeAnswer s = { s with answers := (takeAnswer s).answers, draws := (takeAnswer s).draws } := by
  unfold takeAnswer
  split <;> rfl

/-- An error response is the only change, but for a rejected start. -/
theorem Effect.error_cases {s t : State} {i : Instr} {w : ResponseWord} (he : Effect s i t)
    (hw : t.out.response = some w) (herr : responseStatus w ≠ 0#4) :
    (∃ st, w = responseWord st 0 ∧ t = answered w s) ∨
      (i = .update ∧ w = responseWord .transferStartFailed 0 ∧
        t = { s with tb := encodeFrame s.cfg s.pb s.disable, held := none, answers := t.answers, draws := t.draws,
                     out := t.out }) := by
  cases he with
  | report st data _ hdata =>
    cases hw
    have hst : st ≠ .ok := by
      rintro rfl
      exact herr (responseStatus_responseWord .ok data)
    exact .inl ⟨st, by rw [hdata hst], rfl⟩
  | rejected hi _ hb =>
    cases hw
    exact .inr ⟨hi, rfl, by rw [takeAnswer_frame, hb]; rfl⟩
  | heldBack | notified => cases hw
  | pixels | claimed | released | disabled | started =>
    cases hw
    exact absurd (responseStatus_responseWord .ok 0) herr

theorem Effect.busy_eq_of_error {s t : State} {i : Instr} {w : ResponseWord} (he : Effect s i t)
    (hw : t.out.response = some w) (herr : responseStatus w ≠ 0#4) : t.busy = s.busy := by
  rcases he.error_cases hw herr with ⟨-, -, ht⟩ | ⟨-, -, ht⟩
  · rw [ht]; rfl
  · rw [ht]

/-! ## Which command can report which status (R146) -/

/-- The row of R146 for a status: the commands that can report it, and what then held before the step. -/
def mayReport (i : Instr) (s : State) : Status → Prop
  | .ok => True
  | .indexOutOfRange => s.life = .live ∧
      ((∃ x p, i = .setOne x p ∧ s.count.toNat ≤ x.toNat) ∨ (∃ x c, i = .setOneHsv x c ∧ s.count.toNat ≤ x.toNat) ∨
       ∃ low high p, i = .setSpan low high p ∧ (s.count.toNat ≤ low.toNat ∨ s.count.toNat ≤ high.toNat))
  | .invalidRange =>
      (∃ c, i = .init c ∧ s.life = .uninit ∧ c.toNat = 0) ∨
      (∃ low high p, i = .setSpan low high p ∧ s.life = .live ∧ high.toNat < low.toNat) ∨
      (∃ n, (i = .rol n ∨ i = .ror n) ∧ s.life = .live ∧ s.count.toNat ≤ n.toNat)
  | .notInitialized => s.life ≠ .live ∧ i ≠ .status ∧ (∀ c, i ≠ .hsv2rgb c) ∧ ∀ c, i = .init c → s.life = .dead
  | .allocationFailure => ∃ c, i = .init c ∧ (s.life = .live ∨ s.life = .uninit ∧ s.cfg.maxLeds < c.toNat)
  | .transferStartFailed => i = .update ∧ s.life = .live ∧ s.busy = false ∧ startAnswer s = false
  | .illegalCommand => False

/-- A response in the outcome `r` reports a status that R146 allows `i` in the state `s`. -/
def reportsAllowed (i : Instr) (s : State) (r : Result) : Prop :=
  ∀ t w, r = .next t → t.out.response = some w → ∃ st data, w = responseWord st data ∧ mayReport i s st

section ReportsAllowed

variable {i : Instr} {s t : State}

theorem complete_reportsAllowed {st : Status} (data : BitVec 24) (n : Option Nat) (h : mayReport i s st) :
    reportsAllowed i s (.next (complete st data n t)) := by
  rintro _ w ⟨⟩ ⟨⟩
  exact ⟨st, data, rfl, h⟩

theorem succeed_reportsAllowed (data : BitVec 24) : reportsAllowed i s (succeed data t) :=
  complete_reportsAllowed data none trivial

theorem fail_reportsAllowed {e : Status} (h : mayReport i s e) : reportsAllowed i s (fail e t) :=
  complete_reportsAllowed 0 none h

/-- A hold and the event `NOTIFY` give no response. -/
theorem quiet_reportsAllowed : reportsAllowed i s (.next (quiet t)) := by
  rintro _ w ⟨⟩ ⟨⟩

theorem ite_reportsAllowed {c : Prop} [Decidable c] {x y : Result} (hx : c → reportsAllowed i s x)
    (hy : ¬ c → reportsAllowed i s y) : reportsAllowed i s (if c then x else y) := by
  split
  · exact hx ‹_›
  · exact hy ‹_›

variable (hi : i ≠ .status ∧ (∀ c, i ≠ .hsv2rgb c) ∧ ∀ c, i ≠ .init c)
include hi

/-- A command that needs the Instance reports `NotInitialized` without one, and else what its body reports. -/
theorem whenLive_reportsAllowed {body : Result} (hbody : s.life = .live → reportsAllowed i s body) :
    reportsAllowed i s (whenLive s body) := by
  obtain ⟨hstatus, hhsv, hinit⟩ := hi
  exact ite_reportsAllowed hbody fun hl =>
    fail_reportsAllowed ⟨hl, hstatus, hhsv, fun c hc => absurd hc (hinit c)⟩

/-- The shape of a command with one check of its operand against `COUNT`. -/
theorem checked_reportsAllowed {e : Status} {x : Idx}
    (he : s.life = .live → s.count.toNat ≤ x.toNat → mayReport i s e) :
    reportsAllowed i s (whenLive s (if x.toNat < s.count.toNat then succeed 0 t else fail e s)) :=
  whenLive_reportsAllowed hi fun hl =>
    ite_reportsAllowed (fun _ => succeed_reportsAllowed 0) fun hout =>
      fail_reportsAllowed (he hl (Nat.le_of_not_lt hout))

end ReportsAllowed

theorem execInit_reportsAllowed (c : Idx) (s : State) : reportsAllowed (.init c) s (execInit c s) := by
  unfold execInit
  split
  case h_1 hl => exact fail_reportsAllowed ⟨by simp [hl], by simp, by simp, fun _ _ => hl⟩
  case h_2 hl => exact fail_reportsAllowed ⟨c, rfl, .inl hl⟩
  case h_3 hl =>
    exact ite_reportsAllowed (fun hzero => fail_reportsAllowed (.inl ⟨c, rfl, hl, hzero⟩)) fun _ =>
      ite_reportsAllowed (fun hmax => fail_reportsAllowed ⟨c, rfl, .inr ⟨hl, hmax⟩⟩) fun _ => succeed_reportsAllowed 0

theorem execSetSpan_reportsAllowed (low high : Idx) (p : Pixel) (s : State) :
    reportsAllowed (.setSpan low high p) s (execSetSpan low high p s) := by
  refine whenLive_reportsAllowed (by simp) fun hl => ite_reportsAllowed (fun _ => ?inRange) fun hout => ?outOfRange
  case inRange =>
    exact ite_reportsAllowed (fun hrev => fail_reportsAllowed (.inr (.inl ⟨low, high, p, rfl, hl, hrev⟩))) fun _ =>
      succeed_reportsAllowed 0
  case outOfRange =>
    have hcause : s.count.toNat ≤ low.toNat ∨ s.count.toNat ≤ high.toNat := by omega
    exact fail_reportsAllowed ⟨hl, .inr (.inr ⟨low, high, p, rfl, hcause⟩)⟩

theorem proceedUpdate_reportsAllowed {s : State} (hl : s.life = .live) (hb : s.busy = false) :
    reportsAllowed .update s (proceedUpdate s) :=
  ite_reportsAllowed (fun _ => complete_reportsAllowed 0 _ trivial) fun ha =>
    complete_reportsAllowed 0 _ ⟨rfl, hl, hb, Bool.eq_false_of_not_eq_true ha⟩

/-- R146: a status that an instruction reports is one the table allows it, for the cause named there. -/
theorem exec_reportsAllowed (i : Instr) (s : State) : reportsAllowed i s (exec i s) := by
  cases i with
  | init c => exact execInit_reportsAllowed c s
  | setSpan low high p => exact execSetSpan_reportsAllowed low high p s
  | setOne x p => exact checked_reportsAllowed (by simp) fun hl hout => ⟨hl, .inl ⟨x, p, rfl, hout⟩⟩
  | setOneHsv x c => exact checked_reportsAllowed (by simp) fun hl hout => ⟨hl, .inr (.inl ⟨x, c, rfl, hout⟩)⟩
  | rol n => exact checked_reportsAllowed (by simp) fun hl hout => .inr (.inr ⟨n, .inl rfl, hl, hout⟩)
  | ror n => exact checked_reportsAllowed (by simp) fun hl hout => .inr (.inr ⟨n, .inr rfl, hl, hout⟩)
  | setAll | setAllHsv | clear | shl | shr | setDisable =>
    exact whenLive_reportsAllowed (by simp) fun _ => succeed_reportsAllowed 0
  | teardown =>
    exact whenLive_reportsAllowed (by simp) fun _ =>
      ite_reportsAllowed (fun _ => quiet_reportsAllowed) fun _ => succeed_reportsAllowed 0
  | update =>
    exact whenLive_reportsAllowed (by simp) fun hl => ite_reportsAllowed (fun _ => quiet_reportsAllowed) fun hb =>
      proceedUpdate_reportsAllowed hl (Bool.eq_false_of_not_eq_true hb)
  | status | hsv2rgb => exact succeed_reportsAllowed _
  | notify => exact quiet_reportsAllowed

theorem ofNat_statusCode (st : Status) : Status.ofNat (statusCode st).toNat = st := by
  cases st <;> rfl

theorem statusCode_injective : Function.Injective statusCode :=
  Function.LeftInverse.injective (g := fun code : BitVec 4 => Status.ofNat code.toNat) ofNat_statusCode

/-- The status in a response of `i` names its row of R146. -/
theorem mayReport_of_status {i : Instr} {s t : State} {w : ResponseWord} (hexec : exec i s = .next t)
    (hw : t.out.response = some w) (st : Status) (hst : responseStatus w = statusCode st) : mayReport i s st := by
  obtain ⟨st', data, rfl, hcause⟩ := exec_reportsAllowed i s t w hexec hw
  rw [responseStatus_responseWord] at hst
  exact statusCode_injective hst ▸ hcause

/-! ## The statements -/

/-- Settles O48: `INIT` looks at `LIFE` itself, and every other command that is left begins with `whenLive`. -/
theorem noInstanceMeansNotInitialized : Obligations.NoInstanceMeansNotInitialized := by
  intro i s hl hstatus hhsv hnotify hinit
  cases i with
  | status => exact absurd rfl hstatus
  | hsv2rgb c => exact absurd rfl (hhsv c)
  | notify => exact absurd rfl hnotify
  | init c =>
    cases hlife : s.life with
    | uninit => exact absurd rfl (hinit hlife c)
    | live => exact absurd hlife hl
    | dead => exact exec_init_of_dead c hlife
  | _ => exact whenLive_eq_notInitialized hl _

/-- Settles O49: the two cases of `Effect.error_cases`. -/
theorem failingCommandsChangeNothing : Obligations.FailingCommandsChangeNothing := by
  intro i s t w hexec hw herr
  rcases (effect_of_exec hexec).error_cases hw herr with ⟨st, rfl, ht⟩ | ⟨hi, rfl, ht⟩
  · exact ⟨responseWord_data st 0, .inl ht⟩
  · exact ⟨responseWord_data .transferStartFailed 0, .inr ⟨hi, rfl, ht⟩⟩

/-- Settles O51: each row is `mayReport` of its status, and a rejected start leaves `BUSY` at 0 as it found it. -/
theorem eachErrorHasItsCause : Obligations.EachErrorHasItsCause := by
  intro i s t w hexec hw
  have row := mayReport_of_status hexec hw
  refine ⟨row .indexOutOfRange, row .invalidRange, row .notInitialized, row .allocationFailure, fun hst => ?startFailed,
    row .illegalCommand⟩
  case startFailed =>
    obtain ⟨hi, hl, hb, ha⟩ := row .transferStartFailed hst
    have hbusy : t.busy = s.busy := (effect_of_exec hexec).busy_eq_of_error hw (by simp [hst])
    exact ⟨hi, hl, hb, ha, hbusy.trans hb⟩

end Sys2Proof.Machine
